-- ==== Sys2Proof/Word.lean ====
section
/-! DEFINITION. The two word types of the core: bytes of the block arrays and of the byte ports, and
the 32-bit registers and array elements (spec 20_memory.md R61). -/

namespace Sys2Proof

/-- One byte (R13: 8 bits). -/
abbrev Byte := BitVec 8

/-- One 32-bit register or array element (R61). -/
abbrev Word := BitVec 32

/-- A model id, 0 to 8 (00_scope.md R9). -/
abbrev ModelId := Fin 9

end Sys2Proof
end

