-- ==== Sys2Proof/Config.lean ====
section
/-! DEFINITION. What an implementation fixes (the open parameters of 00_scope.md R9 to R11) and the one
free value of the model (R21: a host read of CRC, N or ORIGPTR while BUSY = 1). -/

namespace Sys2Proof

/-- The open parameters of one built core: `MODEL_INC[0..7]`, `MODEL_LIMIT[0..7]` (R9) and `MAX_LEVEL`
(R11).  They are wired constants: State carries them as data (log entry 6) and nothing writes them. -/
structure Params where
  /-- `MODEL_INC[m]` for the adaptive models 0 to 7 (R9). -/
  modelInc : List Nat
  /-- `MODEL_LIMIT[m]` for the adaptive models 0 to 7 (R9). -/
  modelLimit : List Nat
  /-- `MAX_LEVEL`, the largest level the memories are built for (R11). -/
  maxLevel : Nat
  deriving DecidableEq, Repr

/-- One frequency model (10_state.md R36): the registers `totFreq` and `freq[0..numSymbols)`. -/
structure FreqModel where
  totFreq : Word
  freq : List Word
  deriving DecidableEq, Repr

/-- FREE VALUE (U3 of 93_implementation_defined.md, R21): the word a host read of CRC, N or ORIGPTR
returns while STATUS.BUSY = 1.  It has no body: nothing can be proved of its value (log entry 7). -/
opaque Config.freeWord : Nat → BitVec 32

end Sys2Proof
end

