-- ==== Sys2Proof/Syntax.lean ====
section
/-! DEFINITION. The instructions of the core, one constructor per row of spec/opcode_table.json
(30_encoding.md R91, R94, R100 to R108), and the coded items they are decoded from. -/

namespace Sys2Proof

/-- The twelve fault names (60_exceptions.md R341). -/
inductive FaultCode where
  | badMagic | truncated | blockOverrun | badSentinel | crcMismatch | badOrigptr | badRle1
  | resource | modelSymbolRange | bitsRunaway | origptrNotFound | illegalCmd
  deriving DecidableEq, Repr

/-- The two zero-run digits (R102): RUNA has weight 2, RUNB weight 1. -/
inductive RunDigit where
  | runa | runb
  deriving DecidableEq, Repr

/-- The direction of `spot.apply` (45_rle_spot.md R275): `delta = +1` (SPOT) or `-1` (UNSPOT). -/
inductive SpotDelta where
  | plus | minus
  deriving DecidableEq, Repr

/-- One constructor per row of spec/opcode_table.json, in the table's order.  The operands are those the
row's rule names; the sequencer operations (format SEQOP) have no bit pattern (R108). -/
inductive Instr where
  -- format CMD (R91)
  | nop
  | compress (lvl : BitVec 4)
  | decompress
  | abort
  -- format PHASE (R23, R300)
  | phaseIdle
  | phaseHeaderC
  | phaseLoadRle
  | phaseSpot
  | phaseSort
  | phaseEncode
  | phaseTrailerC
  | phaseHeaderD
  | phaseDecode
  | phaseInvertSort
  | phaseUnspot
  | phaseUnrle
  | phaseTrailerD
  -- format FAULT (R341)
  | faultBadMagic
  | faultTruncated
  | faultBlockOverrun
  | faultBadSentinel
  | faultCrcMismatch
  | faultBadOrigptr
  | faultBadRle1
  | faultResource
  | faultModelSymbolRange
  | faultBitsRunaway
  | faultOrigptrNotFound
  | faultIllegalCmd
  -- format BASIS (R100)
  | basisRuna
  | basisRunb
  | basisOne
  | basis2To3
  | basis4To7
  | basis8To15
  | basis16To31
  | basis32To63
  | basis64To127
  | basis128To255
  | basisEob
  -- format STREAM (R96, R104, R103)
  | streamMagic (lvl : BitVec 4)
  | streamOrigword (w : Word)
  | streamCrc32 (w : Word)
  -- format BLOCK (R105, R106)
  | rle1Short (c : Byte) (r : BitVec 2)
  | rle1Long (c : Byte) (count : Byte)
  | rle1Sentinel
  -- format SEQOP (R108)
  | crcInit
  | crcUpdate (b : Byte)
  | crcFinal
  | modelInit (m : ModelId)
  | modelUpdate (m : ModelId) (sym : Nat)
  | modelRescale (m : ModelId)
  | acEncInit
  | acEncode (m : ModelId) (sym : Nat)
  | acBitPlusFollow (b : Bool)
  | acEncRenorm
  | acEncFlush
  | acDecStart
  | acDecode (m : ModelId)
  | acPutU8 (b : Byte)
  | acPutU32 (w : Word)
  | acGetU8
  | acGetU32
  | mtfInit
  | mtfRank (b : Byte)
  | mtfTake (v : Byte)
  | mtfSendZeroes (k : Word)
  | mtfSendVal (v : Byte)
  | mtfSendEob
  | mtfEncodeBlock
  | mtfDecodeBlock
  | mtfAbsorb (d : RunDigit)
  | mtfCheckOrigptr (mag : Word)
  | bwtSort
  | bwtBuildPad
  | bwtSmallSort
  | bwtTrivialGt (a b : Word)
  | bwtFullGt (a b : Word)
  | bwtBucketSort
  | bwtQsort (lo hi : Word)
  | bwtMedian3 (a b c : Word)
  | bwtPartition (lo hi p : Word)
  | bwtInsertion (lo hi : Word)
  | bwtFindOrigptr
  | bwtInverse
  | rle1Load
  | rle1Unload
  | spotApply (delta : SpotDelta)
  | faultEntry (f : FaultCode)
  | runEnd
  | phaseNext
  deriving DecidableEq, Repr

/-- A coded item, tagged by the place of the spec whose table reads it: the same bits mean different
things in CMD, in STATUS.PHASE, in ERR, in the stream and in a block (R90, R94, R95, R105). -/
inductive Code where
  /-- A word written to CMD (R90). -/
  | cmd (w : Word)
  /-- A PHASE code (R23). -/
  | phase (c : BitVec 4)
  /-- A fault code (R341). -/
  | fault (c : Byte)
  /-- A number of the basis alphabet in the table's 4-bit spelling (R100). -/
  | basis (c : BitVec 4)
  /-- The 32 bits at the place of the magic (R96). -/
  | magic (w : Word)
  /-- The 32-bit field at the place of the `origPtr` word (R104). -/
  | origword (w : Word)
  /-- The 32-bit field at the place of the stored checksum (R103). -/
  | crc32 (w : Word)
  /-- The bytes of one RLE1 unit, in block order (R105). -/
  | unit (bytes : List Byte)
  /-- The byte at the sentinel's place, the end of the final block (R106). -/
  | sentinel (b : Byte)
  deriving DecidableEq, Repr

/-- Why the decoder rejects a coded item. -/
inductive Reject where
  /-- CMD: the ZERO field is not 0 (R92). -/
  | cmdZeroField
  /-- CMD: LVL is not 0 with an OP other than COMPRESS (R92). -/
  | cmdLevelField
  /-- CMD: COMPRESS with LVL = 0 or LVL in 10..15 (R92). -/
  | cmdLevelRange
  /-- CMD: an OP other than 0x00, 0x01, 0x02, 0x0F (R92). -/
  | cmdUnknownOp
  /-- PHASE: one of the unused codes 7, 14, 15 (R23). -/
  | phaseUnused
  /-- FAULT: a code that is never latched (R341). -/
  | faultUnused
  /-- BASIS: a number above 10 (R100). -/
  | basisUnused
  /-- STREAM: not one of the nine magic words (R96). -/
  | notMagic
  /-- BLOCK: not the bytes of exactly one unit (R105). -/
  | notAUnit
  /-- BLOCK: the byte at the sentinel's place is not 42 (R106). -/
  | notSentinel
  /-- A word of the opcode table's numbering that no format holds. -/
  | noFormat
  deriving DecidableEq, Repr

/-- The formats of spec/opcode_table.json. -/
inductive Format where
  | cmd | phase | fault | basis | stream | block | seqop
  deriving DecidableEq, Repr

end Sys2Proof
end

