-- ==== Sys2Proof/Machine/Constants.lean ====
section
/-! DEFINITION. The constants of 00_scope.md R8, R9 and R12, the default parameters (R9, R11) and what a
legal choice of them is (R10). -/

namespace Sys2Proof.Machine

/-- SMALL_B (R8). -/
def smallB : Nat := 26
/-- HALF = `2^(SMALL_B-1)` (R8). -/
def half : Word := 33554432#32
/-- QUARTER = `2^(SMALL_B-2)` (R8). -/
def quarter : Word := 16777216#32
/-- BO_LIMIT (R8, R160). -/
def boLimit : Word := 500000000#32
/-- BLOCK_UNIT (R8). -/
def blockUnit : Nat := 100000
/-- MARGIN (R8, R261). -/
def margin : Nat := 20
/-- Most bytes one RLE1 unit and the sentinel add to a block (R261). -/
def unitRoom : Nat := 6
/-- SMALL_SORT_MAX (R8). -/
def smallSortMax : Nat := 1024
/-- NUM_BUCKETS (R8). -/
def numBuckets : Nat := 65536
/-- QS_THRESHOLD (R8). -/
def qsThreshold : Nat := 10
/-- WRAP_PAD (R8). -/
def wrapPad : Nat := 16
/-- RUN_MIN (R8). -/
def runMin : Nat := 4
/-- RUN_CAP (R8). -/
def runCap : Nat := 255
/-- SENTINEL (R8, R106). -/
def sentinel : Byte := 42#8
/-- SPOT_BASE (R8). -/
def spotBase : Nat := 8000
/-- SPOT_MUL (R8). -/
def spotMul : Nat := 17
/-- SPOT_BIAS (R8). -/
def spotBias : Nat := 5
/-- SPOT_SEQ (R8). -/
def spotSeq : List Nat := [0, 4, 6, 1, 5, 9, 7, 3, 8, 2]
/-- CRC_INIT (R8, R130). -/
def crcStart : Word := 0xFFFFFFFF#32
/-- CRC_POLY (R12). -/
def crcPoly : Word := 0x04C11DB7#32
/-- The magic word of level 0; level `v` is `0x425A3030 + v` (R96). -/
def magicBase : Word := 0x425A3030#32
/-- The Shell increments (R225, R227). -/
def shellIncrements : List Nat := [364, 121, 40, 13, 4, 1]

/-- The alphabet sizes of the nine models (R9). -/
def numSymbols (m : ModelId) : Nat :=
  [11, 2, 4, 8, 16, 32, 64, 128, 256].getD m.val 0

/-- BASIS, model 0 (R9). -/
def basisModel : ModelId := 0
/-- BOGUS, model 8 (R9). -/
def bogusModel : ModelId := 8

/-- Symbol numbers of the basis alphabet (R100). -/
def symRuna : Nat := 0
def symRunb : Nat := 1
def symOne : Nat := 2
def symEob : Nat := 10

/-- The default parameters: R9's `MODEL_INC` and `MODEL_LIMIT`, R11's `MAX_LEVEL`. -/
def defaultParams : Params where
  modelInc := [12, 4, 3, 3, 3, 3, 2, 1]
  modelLimit := [1000, 1000, 1000, 1000, 1000, 1000, 1000, 1000]
  maxLevel := 9

/-- `incValue` of model `m`: 0 for BOGUS, which is static (R9, R140). -/
def incOf (p : Params) (m : ModelId) : Nat :=
  if m = bogusModel then 0 else p.modelInc.getD m.val 0

/-- `noExceed` of model `m`: 256 for BOGUS, which never reads it (R9). -/
def limitOf (p : Params) (m : ModelId) : Nat :=
  if m = bogusModel then 256 else p.modelLimit.getD m.val 0

/-- `CAPMAX = BLOCK_UNIT * MAX_LEVEL` (R11). -/
def capMax (p : Params) : Nat := blockUnit * p.maxLevel

/-- The constraint of R10 on one adaptive model. -/
def modelParamsOk (p : Params) (m : ModelId) : Bool :=
  1 ≤ incOf p m && numSymbols m * incOf p m ≤ limitOf p m
    && limitOf p m + incOf p m ≤ quarter.toNat

/-- The constraints a parameter choice must meet (R10 for models 0 to 7, R11 for MAX_LEVEL). -/
def paramsLegal (p : Params) : Bool :=
  [0, 1, 2, 3, 4, 5, 6, 7].all (modelParamsOk p) && 1 ≤ p.maxLevel && p.maxLevel ≤ 9

/-- `model.init` as a function (R141): every frequency `incValue`, or 1 when the model is static. -/
def initialModel (p : Params) (m : ModelId) : FreqModel :=
  let unit : Nat := if incOf p m = 0 then 1 else incOf p m
  { totFreq := BitVec.ofNat 32 (numSymbols m * unit)
    freq := List.replicate (numSymbols m) (BitVec.ofNat 32 unit) }

/-- All nine models after `model.init(0)` to `model.init(8)` (R197, R200). -/
def initialModels (p : Params) : List FreqModel :=
  [0, 1, 2, 3, 4, 5, 6, 7, 8].map (initialModel p)

/-- The MTF list after `mtf.init`: the identity (R191). -/
def initialList : List Byte := (List.range 256).map (BitVec.ofNat 8)

end Sys2Proof.Machine
end

