-- ==== Sys2Proof/WellFormed.lean ====
section
/-! DEFINITION. Which instruction terms are well formed: the operand ranges that the rows' rules state
(R91, R96, R105, R144, R193 to R199, R231). -/

namespace Sys2Proof

/-- A legal compression level, 1 to 9 (R8: LEVEL_MIN, LEVEL_MAX). -/
def levelOk (lvl : BitVec 4) : Bool := 1 ≤ lvl.toNat && lvl.toNat ≤ 9

/-- The operand ranges of the rules.  Every check is about one operand range a rule states:
levels (R91, R96), the length of a short unit (R105), symbols of a model (R144), ranks passed to
`mtf.send_val` and `mtf.take` (R194, R199) and the inclusive ranges of the sorter (R231, R233, R234). -/
def Instr.wellFormed : Instr → Bool
  | .compress lvl => levelOk lvl
  | .streamMagic lvl => levelOk lvl
  | .rle1Short _ r => 1 ≤ r.toNat
  | .modelUpdate m sym => sym < Machine.numSymbols m
  | .acEncode m sym => sym < Machine.numSymbols m
  | .mtfTake v => v != 0
  | .mtfSendVal v => v != 0
  | .bwtQsort lo hi => lo.toNat ≤ hi.toNat
  | .bwtPartition lo hi _ => lo.toNat ≤ hi.toNat
  | .bwtInsertion lo hi => lo.toNat ≤ hi.toNat
  | _ => true

end Sys2Proof
end

