-- ==== Sys2Proof/Decode.lean ====
section
/-! DEFINITION. The decoder, total on every coded item and rejecting by name, and the encoder written from
the same tables (30_encoding.md R90 to R107; 10_state.md R23; 60_exceptions.md R341). -/

namespace Sys2Proof

/-! ## Decoder -/

/-- The command word (R90, R91, R92): OP in bits 7:0, LVL in 11:8, ZERO in 31:12. -/
def decodeCmd (w : Word) : Except Reject Instr :=
  let op := w.extractLsb' 0 8
  let lvl := w.extractLsb' 8 4
  let zero := w.extractLsb' 12 20
  if zero ≠ 0#20 then .error .cmdZeroField
  else if op = 0x01#8 then
    if levelOk lvl then .ok (.compress lvl) else .error .cmdLevelRange
  else if op = 0x00#8 then
    if lvl = 0#4 then .ok .nop else .error .cmdLevelField
  else if op = 0x02#8 then
    if lvl = 0#4 then .ok .decompress else .error .cmdLevelField
  else if op = 0x0F#8 then
    if lvl = 0#4 then .ok .abort else .error .cmdLevelField
  else .error .cmdUnknownOp

/-- The PHASE codes (R23); 7, 14 and 15 are unused. -/
def decodePhase (c : BitVec 4) : Except Reject Instr :=
  match c.toNat with
  | 0 => .ok .phaseIdle
  | 1 => .ok .phaseHeaderC
  | 2 => .ok .phaseLoadRle
  | 3 => .ok .phaseSpot
  | 4 => .ok .phaseSort
  | 5 => .ok .phaseEncode
  | 6 => .ok .phaseTrailerC
  | 8 => .ok .phaseHeaderD
  | 9 => .ok .phaseDecode
  | 10 => .ok .phaseInvertSort
  | 11 => .ok .phaseUnspot
  | 12 => .ok .phaseUnrle
  | 13 => .ok .phaseTrailerD
  | _ => .error .phaseUnused

/-- The fault codes (R341). -/
def decodeFault (c : Byte) : Except Reject Instr :=
  match c.toNat with
  | 0x10 => .ok .faultBadMagic
  | 0x11 => .ok .faultTruncated
  | 0x12 => .ok .faultBlockOverrun
  | 0x13 => .ok .faultBadSentinel
  | 0x14 => .ok .faultCrcMismatch
  | 0x15 => .ok .faultBadOrigptr
  | 0x16 => .ok .faultBadRle1
  | 0x20 => .ok .faultResource
  | 0x30 => .ok .faultModelSymbolRange
  | 0x31 => .ok .faultBitsRunaway
  | 0x32 => .ok .faultOrigptrNotFound
  | 0x40 => .ok .faultIllegalCmd
  | _ => .error .faultUnused

/-- The numbers of the basis alphabet (R100). -/
def decodeBasis (c : BitVec 4) : Except Reject Instr :=
  match c.toNat with
  | 0 => .ok .basisRuna
  | 1 => .ok .basisRunb
  | 2 => .ok .basisOne
  | 3 => .ok .basis2To3
  | 4 => .ok .basis4To7
  | 5 => .ok .basis8To15
  | 6 => .ok .basis16To31
  | 7 => .ok .basis32To63
  | 8 => .ok .basis64To127
  | 9 => .ok .basis128To255
  | 10 => .ok .basisEob
  | _ => .error .basisUnused

/-- The magic (R96): exactly the words 0x425A3031 to 0x425A3039; the level is in the low four bits. -/
def decodeMagic (w : Word) : Except Reject Instr :=
  if w.extractLsb' 24 8 = 0x42#8 ∧ w.extractLsb' 16 8 = 0x5A#8 ∧ w.extractLsb' 8 8 = 0x30#8
      ∧ 0x31 ≤ (w.extractLsb' 0 8).toNat ∧ (w.extractLsb' 0 8).toNat ≤ 0x39 then
    .ok (.streamMagic (w.extractLsb' 0 4))
  else .error .notMagic

/-- One RLE1 unit (R105): one to three copies of a byte, or four copies and a count. -/
def decodeUnit (bytes : List Byte) : Except Reject Instr :=
  match bytes with
  | [a] => .ok (.rle1Short a 1#2)
  | [a, b] => if a = b then .ok (.rle1Short a 2#2) else .error .notAUnit
  | [a, b, c] => if a = b ∧ b = c then .ok (.rle1Short a 3#2) else .error .notAUnit
  | [a, b, c, d, n] => if a = b ∧ b = c ∧ c = d then .ok (.rle1Long a n) else .error .notAUnit
  | _ => .error .notAUnit

/-- The decoder: each coded item by the table of its own place. -/
def decode (c : Code) : Except Reject Instr :=
  match c with
  | .cmd w => decodeCmd w
  | .phase c => decodePhase c
  | .fault c => decodeFault c
  | .basis c => decodeBasis c
  | .magic w => decodeMagic w
  | .origword w => .ok (.streamOrigword w)
  | .crc32 w => .ok (.streamCrc32 w)
  | .unit bytes => decodeUnit bytes
  | .sentinel b => if b = 42#8 then .ok .rle1Sentinel else .error .notSentinel

/-! ## Encoder -/

/-- The latched code of a fault (R341). -/
def faultCodeBits (f : FaultCode) : Byte :=
  match f with
  | .badMagic => 0x10#8
  | .truncated => 0x11#8
  | .blockOverrun => 0x12#8
  | .badSentinel => 0x13#8
  | .crcMismatch => 0x14#8
  | .badOrigptr => 0x15#8
  | .badRle1 => 0x16#8
  | .resource => 0x20#8
  | .modelSymbolRange => 0x30#8
  | .bitsRunaway => 0x31#8
  | .origptrNotFound => 0x32#8
  | .illegalCmd => 0x40#8

/-- The coded item of an instruction; `none` for the sequencer operations, which "have names but no bit
patterns" (R108). -/
def encode (i : Instr) : Option Code :=
  match i with
  | .nop => some (.cmd 0x00000000#32)
  | .compress lvl => some (.cmd (0x00000001#32 ||| (lvl.zeroExtend 32 <<< 8)))
  | .decompress => some (.cmd 0x00000002#32)
  | .abort => some (.cmd 0x0000000F#32)
  | .phaseIdle => some (.phase 0b0000#4)
  | .phaseHeaderC => some (.phase 0b0001#4)
  | .phaseLoadRle => some (.phase 0b0010#4)
  | .phaseSpot => some (.phase 0b0011#4)
  | .phaseSort => some (.phase 0b0100#4)
  | .phaseEncode => some (.phase 0b0101#4)
  | .phaseTrailerC => some (.phase 0b0110#4)
  | .phaseHeaderD => some (.phase 0b1000#4)
  | .phaseDecode => some (.phase 0b1001#4)
  | .phaseInvertSort => some (.phase 0b1010#4)
  | .phaseUnspot => some (.phase 0b1011#4)
  | .phaseUnrle => some (.phase 0b1100#4)
  | .phaseTrailerD => some (.phase 0b1101#4)
  | .faultBadMagic => some (.fault (faultCodeBits .badMagic))
  | .faultTruncated => some (.fault (faultCodeBits .truncated))
  | .faultBlockOverrun => some (.fault (faultCodeBits .blockOverrun))
  | .faultBadSentinel => some (.fault (faultCodeBits .badSentinel))
  | .faultCrcMismatch => some (.fault (faultCodeBits .crcMismatch))
  | .faultBadOrigptr => some (.fault (faultCodeBits .badOrigptr))
  | .faultBadRle1 => some (.fault (faultCodeBits .badRle1))
  | .faultResource => some (.fault (faultCodeBits .resource))
  | .faultModelSymbolRange => some (.fault (faultCodeBits .modelSymbolRange))
  | .faultBitsRunaway => some (.fault (faultCodeBits .bitsRunaway))
  | .faultOrigptrNotFound => some (.fault (faultCodeBits .origptrNotFound))
  | .faultIllegalCmd => some (.fault (faultCodeBits .illegalCmd))
  | .basisRuna => some (.basis 0b0000#4)
  | .basisRunb => some (.basis 0b0001#4)
  | .basisOne => some (.basis 0b0010#4)
  | .basis2To3 => some (.basis 0b0011#4)
  | .basis4To7 => some (.basis 0b0100#4)
  | .basis8To15 => some (.basis 0b0101#4)
  | .basis16To31 => some (.basis 0b0110#4)
  | .basis32To63 => some (.basis 0b0111#4)
  | .basis64To127 => some (.basis 0b1000#4)
  | .basis128To255 => some (.basis 0b1001#4)
  | .basisEob => some (.basis 0b1010#4)
  | .streamMagic lvl => some (.magic (0x425A3030#32 + lvl.zeroExtend 32))
  | .streamOrigword w => some (.origword w)
  | .streamCrc32 w => some (.crc32 w)
  | .rle1Short c r => some (.unit (List.replicate r.toNat c))
  | .rle1Long c n => some (.unit [c, c, c, c, n])
  | .rle1Sentinel => some (.sentinel 42#8)
  | .crcInit => none
  | .crcUpdate _ => none
  | .crcFinal => none
  | .modelInit _ => none
  | .modelUpdate _ _ => none
  | .modelRescale _ => none
  | .acEncInit => none
  | .acEncode _ _ => none
  | .acBitPlusFollow _ => none
  | .acEncRenorm => none
  | .acEncFlush => none
  | .acDecStart => none
  | .acDecode _ => none
  | .acPutU8 _ => none
  | .acPutU32 _ => none
  | .acGetU8 => none
  | .acGetU32 => none
  | .mtfInit => none
  | .mtfRank _ => none
  | .mtfTake _ => none
  | .mtfSendZeroes _ => none
  | .mtfSendVal _ => none
  | .mtfSendEob => none
  | .mtfEncodeBlock => none
  | .mtfDecodeBlock => none
  | .mtfAbsorb _ => none
  | .mtfCheckOrigptr _ => none
  | .bwtSort => none
  | .bwtBuildPad => none
  | .bwtSmallSort => none
  | .bwtTrivialGt _ _ => none
  | .bwtFullGt _ _ => none
  | .bwtBucketSort => none
  | .bwtQsort _ _ => none
  | .bwtMedian3 _ _ _ => none
  | .bwtPartition _ _ _ => none
  | .bwtInsertion _ _ => none
  | .bwtFindOrigptr => none
  | .bwtInverse => none
  | .rle1Load => none
  | .rle1Unload => none
  | .spotApply _ => none
  | .faultEntry _ => none
  | .runEnd => none
  | .phaseNext => none

/-- The format of the row of spec/opcode_table.json that a constructor stands for. -/
def formatOf (i : Instr) : Format :=
  match i with
  | .nop => .cmd
  | .compress _ => .cmd
  | .decompress => .cmd
  | .abort => .cmd
  | .phaseIdle => .phase
  | .phaseHeaderC => .phase
  | .phaseLoadRle => .phase
  | .phaseSpot => .phase
  | .phaseSort => .phase
  | .phaseEncode => .phase
  | .phaseTrailerC => .phase
  | .phaseHeaderD => .phase
  | .phaseDecode => .phase
  | .phaseInvertSort => .phase
  | .phaseUnspot => .phase
  | .phaseUnrle => .phase
  | .phaseTrailerD => .phase
  | .faultBadMagic => .fault
  | .faultTruncated => .fault
  | .faultBlockOverrun => .fault
  | .faultBadSentinel => .fault
  | .faultCrcMismatch => .fault
  | .faultBadOrigptr => .fault
  | .faultBadRle1 => .fault
  | .faultResource => .fault
  | .faultModelSymbolRange => .fault
  | .faultBitsRunaway => .fault
  | .faultOrigptrNotFound => .fault
  | .faultIllegalCmd => .fault
  | .basisRuna => .basis
  | .basisRunb => .basis
  | .basisOne => .basis
  | .basis2To3 => .basis
  | .basis4To7 => .basis
  | .basis8To15 => .basis
  | .basis16To31 => .basis
  | .basis32To63 => .basis
  | .basis64To127 => .basis
  | .basis128To255 => .basis
  | .basisEob => .basis
  | .streamMagic _ => .stream
  | .streamOrigword _ => .stream
  | .streamCrc32 _ => .stream
  | .rle1Short _ _ => .block
  | .rle1Long _ _ => .block
  | .rle1Sentinel => .block
  | .crcInit => .seqop
  | .crcUpdate _ => .seqop
  | .crcFinal => .seqop
  | .modelInit _ => .seqop
  | .modelUpdate _ _ => .seqop
  | .modelRescale _ => .seqop
  | .acEncInit => .seqop
  | .acEncode _ _ => .seqop
  | .acBitPlusFollow _ => .seqop
  | .acEncRenorm => .seqop
  | .acEncFlush => .seqop
  | .acDecStart => .seqop
  | .acDecode _ => .seqop
  | .acPutU8 _ => .seqop
  | .acPutU32 _ => .seqop
  | .acGetU8 => .seqop
  | .acGetU32 => .seqop
  | .mtfInit => .seqop
  | .mtfRank _ => .seqop
  | .mtfTake _ => .seqop
  | .mtfSendZeroes _ => .seqop
  | .mtfSendVal _ => .seqop
  | .mtfSendEob => .seqop
  | .mtfEncodeBlock => .seqop
  | .mtfDecodeBlock => .seqop
  | .mtfAbsorb _ => .seqop
  | .mtfCheckOrigptr _ => .seqop
  | .bwtSort => .seqop
  | .bwtBuildPad => .seqop
  | .bwtSmallSort => .seqop
  | .bwtTrivialGt _ _ => .seqop
  | .bwtFullGt _ _ => .seqop
  | .bwtBucketSort => .seqop
  | .bwtQsort _ _ => .seqop
  | .bwtMedian3 _ _ _ => .seqop
  | .bwtPartition _ _ _ => .seqop
  | .bwtInsertion _ _ => .seqop
  | .bwtFindOrigptr => .seqop
  | .bwtInverse => .seqop
  | .rle1Load => .seqop
  | .rle1Unload => .seqop
  | .spotApply _ => .seqop
  | .faultEntry _ => .seqop
  | .runEnd => .seqop
  | .phaseNext => .seqop

/-! ## The opcode table's numbering -/

/-- The five bytes of a 40-bit word in the table's own spelling of RLE1.LONG: the first byte of the block
is bits 39:32 and the count bits 7:0 (`source_fields` of that row). -/
def unitBytes (w : Nat) : List Byte :=
  [32, 24, 16, 8, 0].map fun k => BitVec.ofNat 8 (w / 2 ^ k)

/-- The coded item that a word of the opcode table is taken for (log entry 16): 32 bits a command word, or
the magic when CMD's table has no row for it; 8 bits a PHASE code, a fault code or the sentinel; 40 bits
an RLE1 unit. -/
def tableCode (nbits w : Nat) : Code :=
  if nbits = 32 then
    match decodeMagic (BitVec.ofNat 32 w) with
    | .ok _ => .magic (BitVec.ofNat 32 w)
    | .error _ => .cmd (BitVec.ofNat 32 w)
  else if nbits = 8 then
    if w < 16 then .phase (BitVec.ofNat 4 w)
    else if w = 42 then .sentinel (BitVec.ofNat 8 w)
    else .fault (BitVec.ofNat 8 w)
  else .unit (unitBytes w)

/-- Whether `w` is a word of one of the widths the opcode table has. -/
def tableWidthOk (nbits w : Nat) : Bool :=
  (nbits = 8 || nbits = 32 || nbits = 40) && w < 2 ^ nbits

/-- The instruction the decoder reads from a word of the opcode table's numbering. -/
def decodeTableWord (nbits w : Nat) : Option Instr :=
  if tableWidthOk nbits w then
    match decode (tableCode nbits w) with
    | .ok i => some i
    | .error _ => none
  else none

end Sys2Proof
end

