-- ==== Sys2Proof/Machine/State.lean ====
section
/-! DEFINITION. The state of the core as plain data (10_state.md R20 to R50), the reasons a step can stop,
and the machine right after reset (R50, R380). -/

namespace Sys2Proof.Machine

/-- PHASE, the sequencer's position, this hardware's program counter (R23). -/
inductive Phase where
  | idle | headerC | loadRle | spot | sort | encode | trailerC
  | headerD | decode | invertSort | unspot | unrle | trailerD
  deriving DecidableEq, Repr

/-- MODE: which stream operation is running or last ran (R24). -/
inductive Mode where
  | none | compress | decompress
  deriving DecidableEq, Repr

/-- A private array (R60, R61): element number and value, element numbers strictly rising and no entry
equal to what an unlisted element reads as (`unlisted`). -/
abbrev Arr (w : Nat) := List (Nat × BitVec w)

/-- A byte array: the host's cells. -/
abbrev Memory := List Host.Cell

/-- What an element that is not listed reads as.  The spec leaves it open (U1, U2): log entry 5. -/
def unlisted (w : Nat) : BitVec w := 0#w

/-- What the environment supplies at an input port for one run: the items, and whether EOD stands after them
(R63, R297). -/
abbrev Supply (α : Type) := List α × Bool

/-- What the surroundings do to the core, one entry per act (30_encoding.md R93, 70_reset_and_hazards.md
R380, R382).  The list of entries still to come is the model's own field `State.host` (log entry 2). -/
inductive HostEvent where
  /-- The host writes `w` to host register `reg` (R21, R290). -/
  | write (reg : Nat) (w : Word)
  /-- The host writes ABORT while the sequencer performs its next step, when `k` port transactions of that
  step have been made (R294, U4: "some prefix of the output"). -/
  | abortAfter (k : Nat)
  /-- The host reads host register `reg` (R21). -/
  | read (reg : Nat)
  /-- FEED BYTE_IN: bytes, and EOD after them if `eod` (R93). -/
  | feedBytes (bytes : List Byte) (eod : Bool)
  /-- FEED BIT_IN: bits, and EOD after them if `eod` (R93). -/
  | feedBits (bits : List Bool) (eod : Bool)
  /-- The platform empties the queues behind the two input ports (R294, R380, U21). -/
  | dropInput
  /-- WAIT: the host reads STATUS until BUSY = 0 (R93). -/
  | wait
  /-- The host lets the sequencer perform one step before its next act. -/
  | gap
  /-- The reset input is asserted (R380). -/
  | reset
  deriving DecidableEq, Repr

/-- The whole machine.  Fields marked MODEL are the model's own, not the spec's. -/
structure State where
  /-- STATUS.BUSY (R22). -/
  busy : Bool
  /-- STATUS.DONE (R22). -/
  done : Bool
  /-- STATUS.FAULT (R22). -/
  fault : Bool
  /-- STATUS.FINAL, the "final block" flag (R22, R30). -/
  finalBlock : Bool
  /-- STATUS.MODE (R24). -/
  mode : Mode
  /-- STATUS.PHASE (R23). -/
  phase : Phase
  /-- ERR (R25). -/
  err : Byte
  /-- LEVEL (R26). -/
  level : BitVec 4
  /-- CRC, the uncomplemented accumulator (R27). -/
  crc : Word
  /-- N, the logical length of the current block (R28). -/
  n : Word
  /-- ORIGPTR (R29). -/
  origptr : Word
  /-- L, the coder's lower end (R31). -/
  l : Word
  /-- R, the coder's range, shared by encoder and decoder (R31, R32). -/
  r : Word
  /-- BO, the pending carry bits (R31). -/
  bo : Word
  /-- D, the decoder's code value within the interval (R32). -/
  d : Word
  /-- LA_VALID (R33). -/
  laValid : Bool
  /-- LA_BYTE (R33). -/
  laByte : Byte
  /-- SRC_EOD (R33). -/
  srcEod : Bool
  /-- ZP, the pending rank-0 outputs (R34). -/
  zp : Word
  /-- RUNACC (R34). -/
  runacc : Word
  /-- RUNW (R34). -/
  runw : Word
  /-- SPOS (R35). -/
  spos : Word
  /-- SIDX (R35). -/
  sidx : BitVec 4
  /-- M[0] to M[8] (R36). -/
  models : List FreqModel
  /-- YY[0..256), the move-to-front list (R37). -/
  yy : List Byte
  /-- BLOCK[0..CAPMAX+16) (R38).  What this array and the five after it hold where U2 leaves it open: log
  entries 5 and 28. -/
  block : Memory
  /-- ZPTR[0..CAPMAX) (R40). -/
  zptr : Arr 32
  /-- LL[0..CAPMAX) (R41). -/
  ll : Memory
  /-- NEXT[0..CAPMAX) (R42). -/
  nextIdx : Arr 32
  /-- FTAB[0..65537) (R43). -/
  ftab : Arr 32
  /-- CC[0..256) (R44). -/
  cc : Arr 32
  /-- QSTACK, the top first (R46). -/
  qstack : List (Word × Word)
  /-- The running length `n` of `rle1.load` and `mtf.decode_block` before `N <- n` (R200, R262). -/
  pos : Word
  /-- BYTE_IN: the bytes of the stream in front that are not yet pulled, oldest first (R63). -/
  byteIn : List Byte
  /-- BYTE_IN: EOD stands after those bytes; it is sticky for the run (R68). -/
  byteInEod : Bool
  /-- BYTE_IN: a run was given the stream in front (R297; log entry 27). -/
  byteInGiven : Bool
  /-- BYTE_IN: the streams supplied for runs to come, the next one first (R297; log entry 27). -/
  byteInLater : List (Supply Byte)
  /-- BIT_IN: the bits of the stream in front that are not yet pulled, oldest first (R63). -/
  bitIn : List Bool
  /-- BIT_IN: EOD stands after those bits; it is sticky for the run (R68). -/
  bitInEod : Bool
  /-- BIT_IN: a run was given the stream in front (R297; log entry 27). -/
  bitInGiven : Bool
  /-- BIT_IN: the streams supplied for runs to come, the next one first (R297; log entry 27). -/
  bitInLater : List (Supply Bool)
  /-- BIT_OUT: every bit pushed, in the order pushed (R65). -/
  bitOut : List Bool
  /-- BYTE_OUT: every byte pushed, in the order pushed (R67). -/
  byteOut : List Byte
  /-- MODEL: what the host and the environment do next, oldest first (log entry 2). -/
  host : List HostEvent
  /-- MODEL: the word the last host read returned (log entry 2). -/
  hostData : Word
  /-- MODEL: a coded item put before the sequencer by itself, outside a run (log entry 3). -/
  latch : Option Code
  /-- MODEL: the value the last value-returning sequencer operation returned (log entry 15). -/
  result : List Word
  /-- MODEL: how many free words have been drawn (log entry 7). -/
  freeCount : Nat
  /-- The open parameters this core was built with (R9 to R11; log entry 6). -/
  par : Params
  deriving DecidableEq, Repr

/-- Why the machine stops with a fault of the MODEL.  None of these is a fault of the hardware: the twelve
faults of R341 are taken by `faultEntry` as next states.  Each one stands for a place where the rules
give no effect, in states no run reaches; each is SAFE (the model stops where it could only guess). -/
inductive Fault where
  /-- An array index outside the array, raised by the array operations.  "An out-of-range index is a
  defect of the model, not a behaviour of the hardware" (R62).  Safe. -/
  | indexRange
  /-- A division by a zero `totFreq` or `step`, raised by `ac.encode` and `ac.decode`.  The rules are not
  total there (R10, U18).  Safe. -/
  | divideByZero
  /-- A loop of the rules that has no end from this state, raised when its bound is spent.  Safe. -/
  | endless
  deriving DecidableEq, Repr

/-- Why the machine refuses. -/
inductive Refusal where
  /-- An instruction without a meaning yet, refused in exec's arm.  Safe. -/
  | notModelled (mnemonic : String)
  /-- The latch holds a coded item that the decoder rejects, raised by the step.  Safe. -/
  | noSuchCode (why : Reject)
  /-- An operand the rule says is never passed (`mtf.send_val(0)`, R194), raised by that meaning.  Safe. -/
  | operandNeverPassed
  deriving DecidableEq, Repr

/-- The machine right after reset (R50, R380).  STATUS, ERR, LEVEL, CRC, N and ORIGPTR are the spec's; the
values the spec leaves unspecified are those log entries 4 and 5 name. -/
def State.reset : State where
  busy := false
  done := false
  fault := false
  finalBlock := false
  mode := .none
  phase := .idle
  err := 0#8
  level := 0#4
  crc := 0#32
  n := 0#32
  origptr := 0#32
  l := 0#32
  r := half
  bo := 0#32
  d := 0#32
  laValid := false
  laByte := 0#8
  srcEod := false
  zp := 0#32
  runacc := 0#32
  runw := 1#32
  spos := BitVec.ofNat 32 spotBase
  sidx := 0#4
  models := initialModels defaultParams
  yy := initialList
  block := []
  zptr := []
  ll := []
  nextIdx := []
  ftab := []
  cc := []
  qstack := []
  pos := 0#32
  byteIn := []
  byteInEod := false
  byteInGiven := false
  byteInLater := []
  bitIn := []
  bitInEod := false
  bitInGiven := false
  bitInLater := []
  bitOut := []
  byteOut := []
  host := []
  hostData := 0#32
  latch := none
  result := []
  freeCount := 0
  par := defaultParams

end Sys2Proof.Machine
end

