-- ==== Sys2Proof/Machine/Ops.lean ====
section
/-! DEFINITION. The named operations over the state: the arrays, the sequencer's statements and loops,
TAKING A FAULT (60_exceptions.md R352), ending a run (46_pipeline.md R335), the phase transition (R300),
and the return to the reset values (R294, R380). -/

namespace Sys2Proof.Machine

/-! ## Arrays (R60, R61) -/

/-- Element `i` of an array. -/
def arrGet {w : Nat} : Arr w → Nat → BitVec w
  | [], _ => unlisted w
  | (k, v) :: t, i => if i < k then unlisted w else if i = k then v else arrGet t i

/-- Element `i` set to `v`, the canonical form kept: the value an unlisted element reads as is not
listed. -/
def arrSet {w : Nat} : Arr w → Nat → BitVec w → Arr w
  | [], i, v => if v = unlisted w then [] else [(i, v)]
  | (k, u) :: t, i, v =>
    if i < k then (if v = unlisted w then (k, u) :: t else (i, v) :: (k, u) :: t)
    else if i = k then (if v = unlisted w then t else (k, v) :: t)
    else (k, u) :: arrSet t i v

/-- The canonical form: element numbers strictly rising, above `lo`'s bound, no unlisted value listed. -/
def arrWfFrom {w : Nat} : Nat → Arr w → Bool
  | _, [] => true
  | lo, (k, v) :: t => lo ≤ k && v != unlisted w && arrWfFrom (k + 1) t

/-- The canonical form of an array. -/
def arrWf {w : Nat} (a : Arr w) : Bool := arrWfFrom 0 a

/-- The canonical form of a byte array. -/
def Memory.wf (m : Memory) : Bool := arrWf (w := 8) m

/-! ## Statements of the sequencer -/

/-- What ends an operation before its last statement. -/
inductive Stop where
  /-- `raise F` (R16, R352). -/
  | raise (f : FaultCode)
  /-- A pull on a port that holds neither an item nor EOD (R64, R66, U13). -/
  | wait
  /-- A fault of the model (`Fault`). -/
  | defect (f : Fault)
  /-- A refusal of the model (`Refusal`). -/
  | outside (r : Refusal)
  deriving DecidableEq, Repr

/-- A sequencer operation: statements in the order written (R17, R73), ending in a value or a stop, with
the state as it stands there. -/
abbrev Seq (α : Type) := EStateM Stop State α

/-- `raise F` (R16). -/
def raise {α : Type} (f : FaultCode) : Seq α := throw (.raise f)

/-- Stop with a fault of the model. -/
def defect {α : Type} (f : Fault) : Seq α := throw (.defect f)

/-- `for i = a to a + k - 1`, ascending (R17). -/
def loopUp (body : Nat → Seq Unit) : Nat → Nat → Seq Unit
  | _, 0 => pure ()
  | i, k + 1 => do
    body i
    loopUp body (i + 1) k

/-- `for i = k - 1 downto 0` (R17). -/
def loopDown (body : Nat → Seq Unit) : Nat → Seq Unit
  | 0 => pure ()
  | k + 1 => do
    body k
    loopDown body k

/-- `repeat k times` (R17). -/
def repeatTimes (body : Seq Unit) : Nat → Seq Unit
  | 0 => pure ()
  | k + 1 => do
    body
    repeatTimes body k

/-! ## Taking a fault, and what follows it (R352, R335, R300, R294) -/

/-- FAULT ENTRY (R352): ERR takes the code, FAULT is set, BUSY and DONE are cleared; PHASE, MODE, LEVEL,
FINAL and every data register keep the values they had at the raise. -/
def takeFault (f : FaultCode) (s : State) : State :=
  { s with err := faultCodeBits f, fault := true, busy := false, done := false }

/-- End of a run (R335): BUSY falls, DONE rises, PHASE returns to IDLE. -/
def endRun (s : State) : State :=
  { s with busy := false, done := true, phase := .idle }

/-- The phase transition (R300). -/
def nextPhase (s : State) : State :=
  match s.phase with
  | .idle => s
  | .headerC => { s with phase := .loadRle }
  | .loadRle => { s with phase := .spot }
  | .spot => { s with phase := .sort }
  | .sort => { s with phase := .encode }
  | .encode => { s with phase := if s.finalBlock then .trailerC else .loadRle }
  | .trailerC => endRun s
  | .headerD => { s with phase := .decode }
  | .decode => { s with phase := .invertSort }
  | .invertSort => { s with phase := .unspot }
  | .unspot => { s with phase := .unrle }
  | .unrle => { s with phase := if s.finalBlock then .trailerD else .decode }
  | .trailerD => endRun s

/-- The return to the reset values (R50, R294, R380).  The ports, the host's own side and the built
parameters are not part of what is reset (R380: "The stream ports are not part of the core's state"). -/
def clearedState (s : State) : State :=
  { State.reset with
    models := initialModels s.par
    byteIn := s.byteIn, byteInEod := s.byteInEod
    byteInGiven := s.byteInGiven, byteInLater := s.byteInLater
    bitIn := s.bitIn, bitInEod := s.bitInEod
    bitInGiven := s.bitInGiven, bitInLater := s.bitInLater
    bitOut := s.bitOut, byteOut := s.byteOut
    host := s.host, hostData := s.hostData, freeCount := s.freeCount, par := s.par }

/-! ## From an operation to the outcome of an instruction -/

/-- The outcome of an instruction whose meaning is the operation `op`: a raised fault is TAKEN, with every
effect before the raise kept (R355); a wait changes nothing (R64). -/
def perform {α : Type} (op : Seq α) (s : State) : Host.Outcome State Fault Refusal :=
  match op s with
  | .ok _ s' => .next s'
  | .error (.raise f) s' => .next (takeFault f s')
  | .error .wait _ => .next s
  | .error (.defect f) _ => .fault f
  | .error (.outside r) _ => .refused r

/-- The same for an operation that returns a value: the value is left in `result` (log entry 15). -/
def performValue {α : Type} (toWords : α → List Word) (op : Seq α) (s : State) :
    Host.Outcome State Fault Refusal :=
  perform (do
    let v ← op
    modify fun s => { s with result := toWords v }) s

/-- A phase: its statements, then the transition of R300. -/
def performPhase (op : Seq Unit) (s : State) : Host.Outcome State Fault Refusal :=
  perform (do
    op
    modify nextPhase) s

/-! ## Array access by the sequencer, bounds as R38 to R44 give them (R62)

A write changes its one element (R61).  An element outside the range a phase has written, whose contents the
spec leaves open (U2), keeps the value last written to it: DESIGN CHOICE, unsafe (log entry 28). -/

/-- Stop with `indexRange` unless `i` is below the array's size. -/
def checkIndex (i size : Nat) : Seq Unit :=
  if i < size then pure () else defect .indexRange

/-- Number of elements of BLOCK (R38). -/
def blockSize (s : State) : Nat := capMax s.par + wrapPad

/-- `BLOCK[i]`. -/
def readBlock (i : Nat) : Seq Byte := do
  let s ← get
  checkIndex i (blockSize s)
  pure (arrGet s.block i)

/-- `BLOCK[i] <- v`.  Every other element keeps its value; for those beyond N, the wrap padding outside SORT
among them ("unspecified", R38; U2), that is a DESIGN CHOICE (log entry 28). -/
def writeBlock (i : Nat) (v : Byte) : Seq Unit := do
  let s ← get
  checkIndex i (blockSize s)
  modify fun s => { s with block := arrSet s.block i v }

/-- `ZPTR[i]`. -/
def readZptr (i : Nat) : Seq Word := do
  let s ← get
  checkIndex i (capMax s.par)
  pure (arrGet s.zptr i)

/-- `ZPTR[i] <- v`.  That the elements U2 leaves open keep their values is a DESIGN CHOICE (log entry 28). -/
def writeZptr (i : Nat) (v : Word) : Seq Unit := do
  let s ← get
  checkIndex i (capMax s.par)
  modify fun s => { s with zptr := arrSet s.zptr i v }

/-- `LL[i]`. -/
def readLl (i : Nat) : Seq Byte := do
  let s ← get
  checkIndex i (capMax s.par)
  pure (arrGet s.ll i)

/-- `LL[i] <- v`.  That the elements U2 leaves open keep their values is a DESIGN CHOICE (log entry 28). -/
def writeLl (i : Nat) (v : Byte) : Seq Unit := do
  let s ← get
  checkIndex i (capMax s.par)
  modify fun s => { s with ll := arrSet s.ll i v }

/-- `NEXT[i]`. -/
def readNext (i : Nat) : Seq Word := do
  let s ← get
  checkIndex i (capMax s.par)
  pure (arrGet s.nextIdx i)

/-- `NEXT[i] <- v`.  That the elements U2 leaves open keep their values is a DESIGN CHOICE (log entry 28). -/
def writeNext (i : Nat) (v : Word) : Seq Unit := do
  let s ← get
  checkIndex i (capMax s.par)
  modify fun s => { s with nextIdx := arrSet s.nextIdx i v }

/-- `FTAB[i]`. -/
def readFtab (i : Nat) : Seq Word := do
  checkIndex i (numBuckets + 1)
  let s ← get
  pure (arrGet s.ftab i)

/-- `FTAB[i] <- v`.  That the elements U2 leaves open keep their values is a DESIGN CHOICE (log entry 28). -/
def writeFtab (i : Nat) (v : Word) : Seq Unit := do
  checkIndex i (numBuckets + 1)
  modify fun s => { s with ftab := arrSet s.ftab i v }

/-- `CC[b]`: the index is a byte, so it is in range. -/
def readCc (b : Byte) : Seq Word := do
  let s ← get
  pure (arrGet s.cc b.toNat)

/-- `CC[b] <- v`.  That the elements U2 leaves open keep their values is a DESIGN CHOICE (log entry 28). -/
def writeCc (b : Byte) (v : Word) : Seq Unit :=
  modify fun s => { s with cc := arrSet s.cc b.toNat v }

end Sys2Proof.Machine
end

