-- ==== Sys2Proof/Machine/Operands.lean ====
section
/-! DEFINITION. The operand forms of the rules: bytes of a 32-bit field (30_encoding.md R103), the signed
`origPtr` word (R104), value classes (R101), block capacities (R26, R261), circular positions, the packed
word view (10_state.md R39), leading pairs (44_block_sorter.md R228) and the last column (R196). -/

namespace Sys2Proof.Machine

/-- The bytes of a 32-bit field in stream order, most significant first (R69 (a), R103). -/
def fieldBytes (w : Word) : List Byte :=
  [w.extractLsb' 24 8, w.extractLsb' 16 8, w.extractLsb' 8 8, w.extractLsb' 0 8]

/-- `{b3, b2, b1, b0}` (R172). -/
def joinBytes (b3 b2 b1 b0 : Byte) : Word := b3 ++ b2 ++ b1 ++ b0

/-- The bits of a 32-bit word from bit 31 down to bit 0 (R96, R301). -/
def wordBits (w : Word) : List Bool := (List.range 32).map fun i => w.getLsbD (31 - i)

/-- The `origPtr` word (R104): `+(origPtr + 1)` or, for the final block, its two's complement negative. -/
def origWord (finalBlock : Bool) (origptr : Word) : Word :=
  if finalBlock then 0#32 - (origptr + 1#32) else origptr + 1#32

/-- The final flag of an `origPtr` word, bit 31 (R104). -/
def origWordFinal (w : Word) : Bool := w.getLsbD 31

/-- The magnitude of an `origPtr` word (R104). -/
def origWordMag (w : Word) : Word := if origWordFinal w then 0#32 - w else w

/-- The class `c = floor(log2 v)` of a value `v >= 2` (R101). -/
def classOf (v : Nat) : Nat := Nat.log2 v

/-- The model of class `c`, 1 to 7 (R101). -/
def classModel (c : Nat) : ModelId := Fin.ofNat 9 c

/-- `CAP = 100000 * LEVEL` (R26, R261). -/
def capOf (s : State) : Nat := blockUnit * s.level.toNat

/-- Whether a block of running length `n` is full for the loader: `n > LIMIT - 6` with
`LIMIT = CAP - 20` (R261), written without a subtraction. -/
def blockFull (s : State) (n : Nat) : Bool := capOf s < n + margin + unitRoom

/-- `pair(i) = 256 * BLOCK[i] + BLOCK[(i + 1) mod N]` (R228). -/
def pairAt (block : Memory) (n i : Nat) : Nat :=
  256 * (arrGet (w := 8) block i).toNat + (arrGet (w := 8) block ((i + 1) % n)).toNat

/-- The packed word `W(i)`: four consecutive bytes of BLOCK with its padding, the first the most
significant (R39). -/
def packedWord (block : Memory) (i : Nat) : Word :=
  joinBytes (arrGet (w := 8) block i) (arrGet (w := 8) block (i + 1))
    (arrGet (w := 8) block (i + 2)) (arrGet (w := 8) block (i + 3))

/-- The position in BLOCK of `ll(k)`: `(ZPTR[k] + N - 1) mod N` (R196). -/
def precedingPos (z n : Nat) : Nat := (z + n - 1) % n

/-- The step from one spot position to the next, added to SPOS: `8000 + 17 * (d - 5)` (R275). -/
def spotStep (d : Nat) : Nat := spotBase + spotMul * d - spotMul * spotBias

/-- The byte a spot visit leaves: `+1` or `-1` modulo 256 (R275). -/
def spotByte (delta : SpotDelta) (b : Byte) : Byte :=
  match delta with
  | .plus => b + 1#8
  | .minus => b - 1#8

end Sys2Proof.Machine
end

