-- ==== Sys2Proof/Machine/Flags.lean ====
section
/-! DEFINITION. The codes held in registers and the STATUS word (10_state.md R22 to R24; 30_encoding.md
R94). -/

namespace Sys2Proof.Machine

/-- The code of a phase (R23). -/
def phaseCode (p : Phase) : BitVec 4 :=
  match p with
  | .idle => 0#4
  | .headerC => 1#4
  | .loadRle => 2#4
  | .spot => 3#4
  | .sort => 4#4
  | .encode => 5#4
  | .trailerC => 6#4
  | .headerD => 8#4
  | .decode => 9#4
  | .invertSort => 10#4
  | .unspot => 11#4
  | .unrle => 12#4
  | .trailerD => 13#4

/-- The phase with a given code; 7, 14 and 15 are never taken (R23). -/
def phaseOfCode (c : BitVec 4) : Option Phase :=
  [Phase.idle, .headerC, .loadRle, .spot, .sort, .encode, .trailerC, .headerD, .decode, .invertSort,
    .unspot, .unrle, .trailerD].find? fun p => phaseCode p == c

/-- The code of a mode (R22, R24). -/
def modeCode (m : Mode) : BitVec 2 :=
  match m with
  | .none => 0#2
  | .compress => 1#2
  | .decompress => 2#2

/-- One flag as a one-bit field. -/
def flagBit (b : Bool) : BitVec 1 := BitVec.ofBool b

/-- STATUS as the host reads it (R22): bits 31:12 zero, PHASE, bits 7:6 zero, MODE, FINAL, FAULT, DONE,
BUSY. -/
def statusWord (s : State) : Word :=
  (0#20 ++ phaseCode s.phase ++ 0#2 ++ modeCode s.mode ++ flagBit s.finalBlock ++ flagBit s.fault
    ++ flagBit s.done ++ flagBit s.busy : BitVec 32)

/-- BUSY = 1 or FAULT = 1: every command but ABORT is dropped (R290). -/
def commandsDropped (s : State) : Bool := s.busy || s.fault

end Sys2Proof.Machine
end

