-- ==== Sys2Proof/Machine/Crc.lean ====
section
/-! DEFINITION. The checksum (40_crc.md R130 to R135): the table CRCTAB by its generation rule, and
`crc.init`, `crc.update`, `crc.final`. -/

namespace Sys2Proof.Machine

/-- `k` steps of the table's generation rule (R131). -/
def crcShift : Nat → Word → Word
  | 0, c => c
  | k + 1, c =>
    crcShift k (if c.getLsbD 31 then (c <<< 1) ^^^ crcPoly else c <<< 1)

/-- `CRCTAB[i]`, the constant table (R45, R131). -/
def crcTab (i : Byte) : Word := crcShift 8 (i.zeroExtend 32 <<< 24)

/-- The accumulator after one byte (R132). -/
def crcNext (crc : Word) (b : Byte) : Word :=
  (crc <<< 8) ^^^ crcTab (crc.extractLsb' 24 8 ^^^ b)

/-- The accumulator after a string of bytes (R135). -/
def crcOver (crc : Word) (bytes : List Byte) : Word := bytes.foldl crcNext crc

/-- `crc.init` (R130). -/
def crcInitOp : Seq Unit := modify fun s => { s with crc := crcStart }

/-- `crc.update(b)` (R132). -/
def crcUpdateOp (b : Byte) : Seq Unit := modify fun s => { s with crc := crcNext s.crc b }

/-- `crc.final` (R133): the complement, CRC unchanged. -/
def crcFinalOp : Seq Word := do
  let s ← get
  pure (~~~ s.crc)

/-- Meaning of `crc.init` (R130). -/
def execCrcInit (s : State) : Host.Outcome State Fault Refusal := perform crcInitOp s

/-- Meaning of `crc.update` (R132). -/
def execCrcUpdate (b : Byte) (s : State) : Host.Outcome State Fault Refusal :=
  perform (crcUpdateOp b) s

/-- Meaning of `crc.final` (R133). -/
def execCrcFinal (s : State) : Host.Outcome State Fault Refusal :=
  performValue (fun w => [w]) crcFinalOp s

end Sys2Proof.Machine
end

