-- ==== Sys2Proof/Machine/Ports.lean ====
section
/-! DEFINITION. The four port primitives (20_memory.md R63 to R68), and how the environment supplies one
stream for each run (46_pipeline.md R297). -/

namespace Sys2Proof.Machine

/-- `PullByte()` (R64): the oldest byte of BYTE_IN, counted in CRC; `none` is EOD; with neither, the
operation waits. -/
def pullByte : Seq (Option Byte) := do
  let s ← get
  match s.byteIn with
  | b :: rest =>
    set { s with byteIn := rest, crc := crcNext s.crc b }
    pure (some b)
  | [] => if s.byteInEod then pure none else throw .wait

/-- `PullBit()` (R66), where EOD raises TRUNCATED at every place that pulls a bit (R68, R343). -/
def pullBit : Seq Bool := do
  let s ← get
  match s.bitIn with
  | b :: rest =>
    set { s with bitIn := rest }
    pure b
  | [] => if s.bitInEod then raise .truncated else throw .wait

/-- `PushBit` of several bits in order (R65). -/
def pushBits (bits : List Bool) : Seq Unit :=
  modify fun s => { s with bitOut := s.bitOut ++ bits }

/-- `PushByte(b)` (R67): appended to BYTE_OUT and counted in CRC. -/
def pushByte (b : Byte) : Seq Unit :=
  modify fun s => { s with byteOut := s.byteOut ++ [b], crc := crcNext s.crc b }

/-- `w <- 0; repeat k times: w <- (w << 1) or PullBit()` (R165, R310). -/
def pullWordBits : Nat → Word → Seq Word
  | 0, w => pure w
  | k + 1, w => do
    let b ← pullBit
    pullWordBits k ((w <<< 1) ||| (BitVec.ofBool b).zeroExtend 32)

/-! ## One run, one stream (R297; log entry 27) -/

/-- FEED to the streams of runs to come: the last of them takes the items while it is open, that is until
EOD was supplied (R63, R93); else a new one begins. -/
def supplyLater {α : Type} : List (Supply α) → List α → Bool → List (Supply α)
  | [], items, eod => [(items, eod)]
  | [(front, ended)], items, eod =>
    if ended then [(front, ended), (items, eod)] else [(front ++ items, eod)]
  | first :: second :: rest, items, eod => first :: supplyLater (second :: rest) items eod

/-- The stream in front of BYTE_IN takes no more items: EOD was supplied, or the run it was given to has
ended ("What is left unread in the input port when the run ends belongs to that run's stream", R297). -/
def byteStreamClosed (s : State) : Bool :=
  s.byteInEod || (s.byteInGiven && !(s.busy && decide (s.mode = .compress)))

/-- The same of BIT_IN. -/
def bitStreamClosed (s : State) : Bool :=
  s.bitInEod || (s.bitInGiven && !(s.busy && decide (s.mode = .decompress)))

/-- FEED BYTE_IN (R93). -/
def feedByteIn (bytes : List Byte) (eod : Bool) (s : State) : State :=
  { s with
    byteIn := if byteStreamClosed s then s.byteIn else s.byteIn ++ bytes
    byteInEod := if byteStreamClosed s then s.byteInEod else eod
    byteInLater :=
      if byteStreamClosed s then supplyLater s.byteInLater bytes eod else s.byteInLater }

/-- FEED BIT_IN (R93). -/
def feedBitIn (bits : List Bool) (eod : Bool) (s : State) : State :=
  { s with
    bitIn := if bitStreamClosed s then s.bitIn else s.bitIn ++ bits
    bitInEod := if bitStreamClosed s then s.bitInEod else eod
    bitInLater :=
      if bitStreamClosed s then supplyLater s.bitInLater bits eod else s.bitInLater }

/-- The first of the streams to come, an empty one if none was supplied yet. -/
def nextSupply {α : Type} (later : List (Supply α)) : Supply α := later.headD ([], false)

/-- BYTE_IN as an accepted COMPRESS finds it: a run "is given its own input stream", so the stream of an
earlier run goes, with what that run left of it, and the next one comes to the front (R297). -/
def giveByteStream (s : State) : State :=
  { s with
    byteIn := if s.byteInGiven then (nextSupply s.byteInLater).1 else s.byteIn
    byteInEod := if s.byteInGiven then (nextSupply s.byteInLater).2 else s.byteInEod
    byteInLater := if s.byteInGiven then s.byteInLater.tail else s.byteInLater
    byteInGiven := true }

/-- BIT_IN as an accepted DECOMPRESS finds it (R297). -/
def giveBitStream (s : State) : State :=
  { s with
    bitIn := if s.bitInGiven then (nextSupply s.bitInLater).1 else s.bitIn
    bitInEod := if s.bitInGiven then (nextSupply s.bitInLater).2 else s.bitInEod
    bitInLater := if s.bitInGiven then s.bitInLater.tail else s.bitInLater
    bitInGiven := true }

end Sys2Proof.Machine
end

