-- ==== Sys2Proof/Machine/Model.lean ====
section
/-! DEFINITION. The adaptive frequency models (41_model.md R140 to R147). -/

namespace Sys2Proof.Machine

/-- The sum of a list of registers. -/
def sumWords : List Word → Word
  | [] => 0#32
  | w :: t => w + sumWords t

/-- `lowCum(m, s) = freq[0] + ... + freq[s-1]` (R147). -/
def lowCum (fm : FreqModel) (sym : Nat) : Word := sumWords (fm.freq.take sym)

/-- `freq[s]`. -/
def freqAt (fm : FreqModel) (sym : Nat) : Word := fm.freq.getD sym 0#32

/-- `rescale` (R143): every frequency halved, rounded up, and the total summed again. -/
def rescaled (fm : FreqModel) : FreqModel :=
  let freq := fm.freq.map fun f => (f + 1#32) >>> 1
  { totFreq := sumWords freq, freq := freq }

/-- The addition of `model.update` (R142), before the rescale test. -/
def bumped (inc : Nat) (fm : FreqModel) (sym : Nat) : FreqModel :=
  { totFreq := fm.totFreq + BitVec.ofNat 32 inc
    freq := fm.freq.set sym (freqAt fm sym + BitVec.ofNat 32 inc) }

/-- `model.update(m, s)` as a function of the model's registers (R142). -/
def updatedModel (p : Params) (m : ModelId) (fm : FreqModel) (sym : Nat) : FreqModel :=
  if incOf p m = 0 then fm
  else
    let fm' := bumped (incOf p m) fm sym
    if limitOf p m < fm'.totFreq.toNat then rescaled fm' else fm'

/-- The registers of model `m`. -/
def readModel (m : ModelId) : Seq FreqModel := do
  let s ← get
  pure (s.models.getD m.val { totFreq := 0#32, freq := [] })

/-- Write the registers of model `m`. -/
def writeModel (m : ModelId) (fm : FreqModel) : Seq Unit :=
  modify fun s => { s with models := s.models.set m.val fm }

/-- A symbol outside `[0, numSymbols)` raises MODEL_SYMBOL_RANGE (R144, R350). -/
def checkSymbol (m : ModelId) (sym : Nat) : Seq Unit :=
  if sym < numSymbols m then pure () else raise .modelSymbolRange

/-- `model.init(m)` (R141). -/
def modelInitOp (m : ModelId) : Seq Unit := do
  let s ← get
  writeModel m (initialModel s.par m)

/-- `model.rescale` of model `m` (R143). -/
def modelRescaleOp (m : ModelId) : Seq Unit := do
  let fm ← readModel m
  writeModel m (rescaled fm)

/-- `model.update(m, s)` (R142). -/
def modelUpdateOp (m : ModelId) (sym : Nat) : Seq Unit := do
  checkSymbol m sym
  let s ← get
  let fm ← readModel m
  writeModel m (updatedModel s.par m fm sym)

/-- `for m = 0 to 8: call model.init(m)` (R197, R200). -/
def initAllModels : Seq Unit :=
  modify fun s => { s with models := initialModels s.par }

/-- Meaning of `model.init` (R141). -/
def execModelInit (m : ModelId) (s : State) : Host.Outcome State Fault Refusal :=
  perform (modelInitOp m) s

/-- Meaning of `model.update` (R142). -/
def execModelUpdate (m : ModelId) (sym : Nat) (s : State) : Host.Outcome State Fault Refusal :=
  perform (modelUpdateOp m sym) s

/-- Meaning of `model.rescale` (R143). -/
def execModelRescale (m : ModelId) (s : State) : Host.Outcome State Fault Refusal :=
  perform (modelRescaleOp m) s

end Sys2Proof.Machine
end

