-- ==== Sys2Proof/Machine/Coder.lean ====
section
/-! DEFINITION. The arithmetic coder (42_arith_coder.md R155 to R172). -/

namespace Sys2Proof.Machine

/-! ## Encoder -/

/-- `ac.enc_init` (R155). -/
def encInitOp : Seq Unit := modify fun s => { s with l := 0#32, r := half, bo := 0#32 }

/-- `ac.bit_plus_follow(b)` (R158): the bit, then BO opposite bits; BO ends 0. -/
def bitPlusFollowOp (b : Bool) : Seq Unit :=
  modify fun s =>
    { s with bitOut := s.bitOut ++ b :: List.replicate s.bo.toNat (!b), bo := 0#32 }

/-- The doubling that ends every pass of `enc_renorm` (R159). -/
def encShiftOp : Seq Unit := modify fun s => { s with l := s.l <<< 1, r := s.r <<< 1 }

/-- The three cases of one pass of `enc_renorm`, in the written order, with the corrected bit values
(R159; 90_conflicts.md C1). -/
def encDecideOp : Seq Unit := do
  let s ← get
  if s.l + s.r ≤ half then
    bitPlusFollowOp false
  else if half ≤ s.l then do
    set { s with l := s.l - half }
    bitPlusFollowOp true
  else do
    set { s with l := s.l - quarter, bo := s.bo + 1#32 }
    if boLimit < s.bo + 1#32 then raise .bitsRunaway else pure ()

/-- `while R <= QUARTER` of `enc_renorm` (R159), at most `fuel` tests. -/
def encRenormLoop : Nat → Seq Unit
  | 0 => defect .endless
  | fuel + 1 => do
    let s ← get
    if s.r ≤ quarter then do
      encDecideOp
      encShiftOp
      encRenormLoop fuel
    else pure ()

/-- `enc_renorm` (R159): "at most 26 times per symbol", so 32 tests are enough unless R = 0. -/
def encRenormOp : Seq Unit := encRenormLoop 32

/-- The interval of symbol `sym` taken out of `[L, L+R)` (R156 steps 1 and 2). -/
def encNarrowOp (fm : FreqModel) (sym : Nat) : Seq Unit := do
  if fm.totFreq = 0#32 then defect .divideByZero else pure ()
  modify fun s =>
    let low := lowCum fm sym
    let f := freqAt fm sym
    let step := s.r / fm.totFreq
    { s with
      l := s.l + step * low
      r := if low + f < fm.totFreq then step * f else s.r - step * low }

/-- `ac.encode(m, s)` (R156). -/
def encodeOp (m : ModelId) (sym : Nat) : Seq Unit := do
  checkSymbol m sym
  let fm ← readModel m
  encNarrowOp fm sym
  encRenormOp
  modelUpdateOp m sym

/-- `ac.enc_flush` (R161): the 26 bits of L, most significant first, through bit-plus-follow. -/
def encFlushOp : Seq Unit :=
  loopDown (fun i => do
    let s ← get
    bitPlusFollowOp (s.l.getLsbD i)) smallB

/-! ## Decoder -/

/-- `ac.dec_start` (R165). -/
def decStartOp : Seq Unit := do
  modify fun s => { s with r := half, d := 0#32 }
  loopUp (fun _ => do
    let b ← pullBit
    modify fun s => { s with d := (s.d <<< 1) ||| (BitVec.ofBool b).zeroExtend 32 }) 0 smallB

/-- The scan of R166 step 2 over the frequencies from symbol `sym`, whose lower total is `low`: the symbol
whose range holds `target`, with its lower total and its frequency. -/
def findSymbol (target : Word) : List Word → Nat → Word → Option (Nat × Word × Word)
  | [], _, _ => none
  | f :: rest, sym, low =>
    if low + f ≤ target then findSymbol target rest (sym + 1) (low + f) else some (sym, low, f)

/-- `target = min(T - 1, D / step)` (R166 step 1). -/
def decTarget (tot step d : Word) : Word :=
  if tot - 1#32 ≤ d / step then tot - 1#32 else d / step

/-- `while R <= QUARTER` of `ac.decode` (R166 step 4), at most `fuel` tests. -/
def decRenormLoop : Nat → Seq Unit
  | 0 => defect .endless
  | fuel + 1 => do
    let s ← get
    if s.r ≤ quarter then do
      let b ← pullBit
      modify fun s =>
        { s with r := s.r <<< 1, d := (s.d <<< 1) ||| (BitVec.ofBool b).zeroExtend 32 }
      decRenormLoop fuel
    else pure ()

/-- R166 step 4: every pass pulls one bit, so one test more than the port's items is enough. -/
def decRenormOp : Seq Unit := do
  let s ← get
  decRenormLoop (s.bitIn.length + 1)

/-- `ac.decode(m)` (R166). -/
def decodeOp (m : ModelId) : Seq Nat := do
  let fm ← readModel m
  let s ← get
  if fm.totFreq = 0#32 then defect .divideByZero else pure ()
  let step := s.r / fm.totFreq
  if step = 0#32 then defect .divideByZero else pure ()
  match findSymbol (decTarget fm.totFreq step s.d) fm.freq 0 0#32 with
  | none => raise .modelSymbolRange
  | some (sym, low, f) =>
    set { s with
      d := s.d - step * low
      r := if low + f < fm.totFreq then step * f else s.r - step * low }
    decRenormOp
    modelUpdateOp m sym
    pure sym

/-! ## Raw integers through the static model -/

/-- `ac.put_u8(b)` (R169). -/
def putU8Op (b : Byte) : Seq Unit := encodeOp bogusModel b.toNat

/-- `ac.put_u32(w)` (R170): four bytes, most significant first. -/
def putU32Op (w : Word) : Seq Unit := do
  putU8Op (w.extractLsb' 24 8)
  putU8Op (w.extractLsb' 16 8)
  putU8Op (w.extractLsb' 8 8)
  putU8Op (w.extractLsb' 0 8)

/-- `ac.get_u8()` (R171). -/
def getU8Op : Seq Byte := do
  let sym ← decodeOp bogusModel
  pure (BitVec.ofNat 8 sym)

/-- `ac.get_u32()` (R172). -/
def getU32Op : Seq Word := do
  let b3 ← getU8Op
  let b2 ← getU8Op
  let b1 ← getU8Op
  let b0 ← getU8Op
  pure (joinBytes b3 b2 b1 b0)

/-! ## Meanings -/

/-- Meaning of `ac.enc_init` (R155). -/
def execAcEncInit (s : State) : Host.Outcome State Fault Refusal := perform encInitOp s

/-- Meaning of `ac.encode` (R156). -/
def execAcEncode (m : ModelId) (sym : Nat) (s : State) : Host.Outcome State Fault Refusal :=
  perform (encodeOp m sym) s

/-- Meaning of `ac.bit_plus_follow` (R158). -/
def execAcBitPlusFollow (b : Bool) (s : State) : Host.Outcome State Fault Refusal :=
  perform (bitPlusFollowOp b) s

/-- Meaning of `ac.enc_renorm` (R159). -/
def execAcEncRenorm (s : State) : Host.Outcome State Fault Refusal := perform encRenormOp s

/-- Meaning of `ac.enc_flush` (R161). -/
def execAcEncFlush (s : State) : Host.Outcome State Fault Refusal := perform encFlushOp s

/-- Meaning of `ac.dec_start` (R165). -/
def execAcDecStart (s : State) : Host.Outcome State Fault Refusal := perform decStartOp s

/-- Meaning of `ac.decode` (R166). -/
def execAcDecode (m : ModelId) (s : State) : Host.Outcome State Fault Refusal :=
  performValue (fun sym => [BitVec.ofNat 32 sym]) (decodeOp m) s

/-- Meaning of `ac.put_u8` (R169). -/
def execAcPutU8 (b : Byte) (s : State) : Host.Outcome State Fault Refusal :=
  perform (putU8Op b) s

/-- Meaning of `ac.put_u32` (R170). -/
def execAcPutU32 (w : Word) (s : State) : Host.Outcome State Fault Refusal :=
  perform (putU32Op w) s

/-- Meaning of `ac.get_u8` (R171). -/
def execAcGetU8 (s : State) : Host.Outcome State Fault Refusal :=
  performValue (fun b => [b.zeroExtend 32]) getU8Op s

/-- Meaning of `ac.get_u32` (R172). -/
def execAcGetU32 (s : State) : Host.Outcome State Fault Refusal :=
  performValue (fun w => [w]) getU32Op s

end Sys2Proof.Machine
end

