-- ==== Sys2Proof/Machine/Mtf.lean ====
section
/-! DEFINITION. The structured move-to-front codec with zero-run folding (43_mtf_codec.md R190 to R205). -/

namespace Sys2Proof.Machine

/-! ## The list -/

/-- The list with the entry at rank `j` moved to rank 0 (R192, R199). -/
def moveToFront (yy : List Byte) (j : Nat) (b : Byte) : List Byte := b :: yy.eraseIdx j

/-- `mtf.init` (R191). -/
def mtfInitOp : Seq Unit := modify fun s => { s with yy := initialList }

/-- `mtf.rank(b)` (R192). -/
def mtfRankOp (b : Byte) : Seq Nat := do
  let s ← get
  let j := s.yy.idxOf b
  checkIndex j s.yy.length
  set { s with yy := moveToFront s.yy j b }
  pure j

/-- `mtf.take(v)` (R199). -/
def mtfTakeOp (v : Nat) : Seq Byte := do
  let s ← get
  checkIndex v s.yy.length
  let b := s.yy.getD v 0#8
  set { s with yy := moveToFront s.yy v b }
  pure b

/-! ## Encoder procedures -/

/-- The run digit string of `mtf.send_zeroes(k)` (R102, R193), first sent first; `fuel` bounds the number
of digits. -/
def runDigits : Nat → Nat → List RunDigit
  | 0, _ => []
  | fuel + 1, k =>
    if k = 0 then []
    else (if (k - 1) % 2 = 1 then .runa else .runb) :: runDigits fuel ((k - 1) / 2)

/-- The basis symbol number of a run digit (R100). -/
def digitSymbol (d : RunDigit) : Nat :=
  match d with
  | .runa => symRuna
  | .runb => symRunb

/-- `ac.encode(0, digit)` for every digit in order (R193). -/
def sendDigits : List RunDigit → Seq Unit
  | [] => pure ()
  | d :: rest => do
    encodeOp basisModel (digitSymbol d)
    sendDigits rest

/-- `mtf.send_zeroes(k)` (R193); a 32-bit `k` has at most 32 digits. -/
def sendZeroesOp (k : Word) : Seq Unit := sendDigits (runDigits 32 k.toNat)

/-- `mtf.send_val(v)` (R194); `v = 0` "is never passed". -/
def sendValOp (v : Nat) : Seq Unit :=
  if v = 0 then throw (.outside .operandNeverPassed)
  else if v = 1 then encodeOp basisModel symOne
  else do
    encodeOp basisModel (2 + classOf v)
    encodeOp (classModel (classOf v)) (v - 2 ^ classOf v)

/-- `mtf.send_eob` (R195). -/
def sendEobOp : Seq Unit := encodeOp basisModel symEob

/-- `call mtf.send_zeroes(ZP); ZP <- 0` (R197). -/
def flushZpOp : Seq Unit := do
  let s ← get
  sendZeroesOp s.zp
  modify fun s => { s with zp := 0#32 }

/-- `ll(k) = BLOCK[(ZPTR[k] + N - 1) mod N]` (R196). -/
def lastColumn (k : Nat) : Seq Byte := do
  let s ← get
  let z ← readZptr k
  readBlock (precedingPos z.toNat s.n.toNat)

/-- One pass of the loop of `mtf.encode_block` (R197). -/
def encodePass (k : Nat) : Seq Unit := do
  let b ← lastColumn k
  let j ← mtfRankOp b
  if j = 0 then modify fun s => { s with zp := s.zp + 1#32 }
  else do
    flushZpOp
    sendValOp j

/-- `mtf.encode_block` (R197). -/
def encodeBlockOp : Seq Unit := do
  initAllModels
  mtfInitOp
  modify fun s => { s with zp := 0#32 }
  let s ← get
  putU32Op (origWord s.finalBlock s.origptr)
  loopUp encodePass 0 s.n.toNat
  flushZpOp
  sendEobOp

/-! ## Decoder procedures -/

/-- `absorb(s)` (R201): one run digit, then the capacity check. -/
def absorbOp (d : RunDigit) : Seq Unit := do
  modify fun s =>
    { s with
      runacc := s.runacc + (match d with | .runa => 2#32 * s.runw | .runb => s.runw)
      runw := s.runw <<< 1 }
  let s ← get
  if capOf s < s.pos.toNat + s.runacc.toNat then raise .blockOverrun else pure ()

/-- `LL[n] <- b; n <- n + 1` (R200). -/
def appendLl (b : Byte) : Seq Unit := do
  let s ← get
  writeLl s.pos.toNat b
  modify fun s => { s with pos := s.pos + 1#32 }

/-- The end of a run in `mtf.decode_block`: RUNACC copies of YY[0] (R200). -/
def flushRunOp : Seq Unit := do
  let s ← get
  if s.runacc = 0#32 then pure ()
  else do
    repeatTimes (appendLl (s.yy.getD 0 0#8)) s.runacc.toNat
    modify fun s => { s with runacc := 0#32, runw := 1#32 }

/-- A value in `mtf.decode_block`: the capacity check, then `LL[n] <- mtf.take(v)` (R200). -/
def storeValueOp (v : Nat) : Seq Unit := do
  let s ← get
  if capOf s < s.pos.toNat + 1 then raise .blockOverrun else pure ()
  let b ← mtfTakeOp v
  appendLl b

/-- The loop body of `mtf.decode_block` after its basis symbol was decoded (R200); true at EOB. -/
def basisReceived (sym : Nat) : Seq Bool := do
  if sym = symRuna then do
    absorbOp .runa
    pure false
  else if sym = symRunb then do
    absorbOp .runb
    pure false
  else do
    flushRunOp
    if sym = symEob then pure true
    else if sym = symOne then do
      storeValueOp 1
      pure false
    else do
      let off ← decodeOp (classModel (sym - 2))
      storeValueOp (2 ^ (sym - 2) + off)
      pure false

/-- The loop of `mtf.decode_block` (R200), at most `fuel` symbols: every symbol but EOB raises
`n + RUNACC`, which the capacity checks bound. -/
def decodeLoop : Nat → Seq Unit
  | 0 => defect .endless
  | fuel + 1 => do
    let sym ← decodeOp basisModel
    let eob ← basisReceived sym
    if eob then pure () else decodeLoop fuel

/-- The `origPtr` word as received (R200, R104): FINAL is set; the magnitude is returned. -/
def origwordReceived (w : Word) : Seq Word := do
  modify fun s => { s with finalBlock := origWordFinal w }
  pure (origWordMag w)

/-- `check_origptr(mag)` (R203). -/
def checkOrigptrOp (mag : Word) : Seq Unit := do
  let s ← get
  if mag = 0#32 ∨ s.n ≤ mag - 1#32 then raise .badOrigptr
  else modify fun s => { s with origptr := mag - 1#32 }

/-- `mtf.decode_block` (R200). -/
def decodeBlockOp : Seq Unit := do
  initAllModels
  mtfInitOp
  modify fun s => { s with runacc := 0#32, runw := 1#32, pos := 0#32 }
  let w ← getU32Op
  let mag ← origwordReceived w
  let s ← get
  decodeLoop (capOf s + 2)
  modify fun s => { s with n := s.pos }
  checkOrigptrOp mag

/-! ## Meanings -/

/-- Meaning of `mtf.init` (R191). -/
def execMtfInit (s : State) : Host.Outcome State Fault Refusal := perform mtfInitOp s

/-- Meaning of `mtf.rank` (R192). -/
def execMtfRank (b : Byte) (s : State) : Host.Outcome State Fault Refusal :=
  performValue (fun j => [BitVec.ofNat 32 j]) (mtfRankOp b) s

/-- Meaning of `mtf.take` (R199). -/
def execMtfTake (v : Byte) (s : State) : Host.Outcome State Fault Refusal :=
  performValue (fun b => [b.zeroExtend 32]) (mtfTakeOp v.toNat) s

/-- Meaning of `mtf.send_zeroes` (R193). -/
def execMtfSendZeroes (k : Word) (s : State) : Host.Outcome State Fault Refusal :=
  perform (sendZeroesOp k) s

/-- Meaning of `mtf.send_val` (R194). -/
def execMtfSendVal (v : Byte) (s : State) : Host.Outcome State Fault Refusal :=
  perform (sendValOp v.toNat) s

/-- Meaning of `mtf.send_eob` (R195). -/
def execMtfSendEob (s : State) : Host.Outcome State Fault Refusal := perform sendEobOp s

/-- Meaning of `mtf.encode_block` (R197). -/
def execMtfEncodeBlock (s : State) : Host.Outcome State Fault Refusal := perform encodeBlockOp s

/-- Meaning of `mtf.decode_block` (R200). -/
def execMtfDecodeBlock (s : State) : Host.Outcome State Fault Refusal := perform decodeBlockOp s

/-- Meaning of `absorb` (R201). -/
def execMtfAbsorb (d : RunDigit) (s : State) : Host.Outcome State Fault Refusal :=
  perform (absorbOp d) s

/-- Meaning of `check_origptr` (R203). -/
def execMtfCheckOrigptr (mag : Word) (s : State) : Host.Outcome State Fault Refusal :=
  perform (checkOrigptrOp mag) s

end Sys2Proof.Machine
end

