-- ==== Sys2Proof/Machine/Sorter.lean ====
section
/-! DEFINITION. The block sorter, forward and inverse (44_block_sorter.md R220 to R242), by the procedure of
R224 to R237. -/

namespace Sys2Proof.Machine

/-! ## Comparators -/

/-- The byte loop of `trivial_gt` (R226): `k` is the offset, `fuel` the bytes still to compare. -/
def trivialGtFrom (block : Memory) (n a b : Nat) : Nat → Nat → Bool
  | _, 0 => b < a
  | k, fuel + 1 =>
    let x : Byte := arrGet (w := 8) block ((a + k) % n)
    let y : Byte := arrGet (w := 8) block ((b + k) % n)
    if x ≠ y then decide (y < x) else trivialGtFrom block n a b (k + 1) fuel

/-- `trivial_gt(a, b)` (R226). -/
def trivialGt (block : Memory) (n a b : Nat) : Bool :=
  if a = b then false else trivialGtFrom block n a b 0 n

/-- The first of the packed words at offsets `us` that differ, as `x > y` (R230). -/
def wordsGt (block : Memory) (i j : Nat) : List Nat → Option Bool
  | [] => none
  | u :: us =>
    let x := packedWord block (i + u)
    let y := packedWord block (j + u)
    if x ≠ y then some (decide (y < x)) else wordsGt block i j us

/-- The passes of `full_gt` (R230): 16 bytes a pass while `k < N`, wrapping `i` and `j`. -/
def fullGtFrom (block : Memory) (n a b : Nat) : Nat → Nat → Nat → Nat → Bool
  | 0, _, _, _ => b < a
  | fuel + 1, i, j, k =>
    if k < n then
      match wordsGt block i j [0, 4, 8, 12] with
      | some gt => gt
      | none =>
        let i' := if n ≤ i + 16 then i + 16 - n else i + 16
        let j' := if n ≤ j + 16 then j + 16 - n else j + 16
        fullGtFrom block n a b fuel i' j' (k + 16)
    else b < a

/-- `full_gt(a, b)` (R230); every pass raises `k` by 16, so `N` passes are enough. -/
def fullGt (block : Memory) (n a b : Nat) : Bool :=
  if a = b then false else fullGtFrom block n a b (n + 1) a b 0

/-- `trivial_gt` as an operation: the positions it reads are below N, which BLOCK must hold (R62). -/
def trivialGtOp (a b : Word) : Seq Bool := do
  let s ← get
  checkIndex s.n.toNat (blockSize s + 1)
  pure (trivialGt s.block s.n.toNat a.toNat b.toNat)

/-- `full_gt` as an operation: start positions below N, and BLOCK holds the block and its padding (R38,
R230). -/
def fullGtOp (a b : Word) : Seq Bool := do
  let s ← get
  checkIndex s.n.toNat (capMax s.par + 1)
  checkIndex a.toNat s.n.toNat
  checkIndex b.toNat s.n.toNat
  pure (fullGt s.block s.n.toNat a.toNat b.toNat)

/-! ## Small blocks -/

/-- The inner loop of a Shell pass (R225): `v` sinks from place `j` by steps of `h`; `fuel` bounds the
steps. -/
def shellSink (h : Nat) (v : Word) : Nat → Nat → Seq Nat
  | 0, _ => defect .endless
  | fuel + 1, j => do
    if h ≤ j then do
      let z ← readZptr (j - h)
      let gt ← trivialGtOp z v
      if gt then do
        writeZptr j z
        shellSink h v fuel (j - h)
      else pure j
    else pure j

/-- One element of a Shell pass (R225). -/
def shellStep (h i : Nat) : Seq Unit := do
  let v ← readZptr i
  let j ← shellSink h v (i + 1) i
  writeZptr j v

/-- The passes of `bwt.small_sort` over the increments, skipping those not below N (R225). -/
def shellPasses (n : Nat) : List Nat → Seq Unit
  | [] => pure ()
  | h :: rest => do
    if h < n then loopUp (shellStep h) h (n - h) else pure ()
    shellPasses n rest

/-- `bwt.small_sort` (R225). -/
def smallSortOp : Seq Unit := do
  let s ← get
  loopUp (fun i => writeZptr i (BitVec.ofNat 32 i)) 0 s.n.toNat
  shellPasses s.n.toNat shellIncrements

/-! ## Large blocks -/

/-- `build_pad` (R224).  The padding stays in BLOCK after SORT, where R38 leaves it unspecified: DESIGN CHOICE
(log entry 28). -/
def buildPadOp : Seq Unit := do
  let s ← get
  loopUp (fun t => do
    let b ← readBlock t
    writeBlock (s.n.toNat + t) b) 0 wrapPad

/-- `median3(a, b, c)` (R232). -/
def median3Op (a b c : Word) : Seq Word := do
  let gab ← fullGtOp a b
  let (a, b) := if gab then (b, a) else (a, b)
  let gbc ← fullGtOp b c
  if gbc then do
    let b := c
    let gab ← fullGtOp a b
    pure (if gab then a else b)
  else pure b

/-- `while full_gt(p, ZPTR[i]): i <- i + 1` (R233). -/
def scanUp (p : Word) : Nat → Nat → Seq Nat
  | 0, _ => defect .endless
  | fuel + 1, i => do
    let z ← readZptr i
    let gt ← fullGtOp p z
    if gt then scanUp p fuel (i + 1) else pure i

/-- `while full_gt(ZPTR[j], p): j <- j - 1` (R233); below place 0 there is no element. -/
def scanDown (p : Word) : Nat → Seq Nat
  | 0 => do
    let z ← readZptr 0
    let gt ← fullGtOp z p
    if gt then defect .indexRange else pure 0
  | j + 1 => do
    let z ← readZptr (j + 1)
    let gt ← fullGtOp z p
    if gt then scanDown p j else pure (j + 1)

/-- `exchange ZPTR[i] and ZPTR[j]` (R233). -/
def exchangeZptr (i j : Nat) : Seq Unit := do
  let x ← readZptr i
  let y ← readZptr j
  writeZptr i y
  writeZptr j x

/-- The `repeat … until i > j` loop of `partition` (R233).  `j` is a mathematical integer: it ends at
`lo - 1` when the scans meet at `lo` (log entry 11). -/
def partitionLoop (p : Word) : Nat → Nat → Nat → Seq (Nat × Int)
  | 0, _, _ => defect .endless
  | fuel + 1, i, j => do
    let s ← get
    let i ← scanUp p (capMax s.par + 1) i
    let j ← scanDown p j
    if i ≤ j then do
      exchangeZptr i j
      if i + 1 < j then partitionLoop p fuel (i + 1) (j - 1)
      else pure (i + 1, (j : Int) - 1)
    else pure (i, (j : Int))

/-- `partition(lo, hi, p)` (R233). -/
def partitionOp (lo hi p : Word) : Seq (Nat × Int) :=
  partitionLoop p (hi.toNat + 1) lo.toNat hi.toNat

/-- The inner loop of `insertion` (R234): `v` sinks from place `j` to `lo` at most. -/
def insertSink (lo : Nat) (v : Word) : Nat → Seq Nat
  | 0 => pure 0
  | j + 1 => do
    if lo < j + 1 then do
      let z ← readZptr j
      let gt ← fullGtOp z v
      if gt then do
        writeZptr (j + 1) z
        insertSink lo v j
      else pure (j + 1)
    else pure (j + 1)

/-- One element of `insertion` (R234). -/
def insertStep (lo i : Nat) : Seq Unit := do
  let v ← readZptr i
  let j ← insertSink lo v i
  writeZptr j v

/-- `insertion(lo, hi)` (R234). -/
def insertionOp (lo hi : Word) : Seq Unit :=
  loopUp (insertStep lo.toNat) (lo.toNat + 1) (hi.toNat - lo.toNat)

/-- Push a range on QSTACK unless it has fewer than two elements (R231). -/
def pushRange (first second : Int) : Seq Unit :=
  if first < second then
    modify fun s =>
      { s with qstack := (BitVec.ofInt 32 first, BitVec.ofInt 32 second) :: s.qstack }
  else pure ()

/-- One range of `bwt.qsort` (R231): insertion sort up to QS_THRESHOLD elements, else a partition whose
smaller part is popped next. -/
def qsortRange (lo hi : Word) : Seq Unit := do
  if hi.toNat + 1 ≤ lo.toNat + qsThreshold then insertionOp lo hi
  else do
    let a ← readZptr lo.toNat
    let b ← readZptr ((lo.toNat + hi.toNat) / 2)
    let c ← readZptr hi.toNat
    let p ← median3Op a b c
    let (i, j) ← partitionOp lo hi p
    if j - (lo.toNat : Int) < (hi.toNat : Int) - (i : Int) then do
      pushRange i hi.toNat
      pushRange lo.toNat j
    else do
      pushRange lo.toNat j
      pushRange i hi.toNat

/-- `while QSTACK is not empty` (R231), at most `fuel` tests. -/
def qsortLoop : Nat → Seq Unit
  | 0 => defect .endless
  | fuel + 1 => do
    let s ← get
    match s.qstack with
    | [] => pure ()
    | (lo, hi) :: rest => do
      set { s with qstack := rest }
      qsortRange lo hi
      qsortLoop fuel

/-- How many tests of the stack loop are enough: a range of `k` elements leads to fewer than `2 k`
ranges. -/
def qsortTests : List (Word × Word) → Nat
  | [] => 1
  | (lo, hi) :: rest => 2 * (hi.toNat - lo.toNat + 1) + qsortTests rest

/-- `bwt.qsort(lo, hi)` (R231). -/
def qsortOp (lo hi : Word) : Seq Unit := do
  modify fun s => { s with qstack := (lo, hi) :: s.qstack }
  let s ← get
  qsortLoop (qsortTests s.qstack)

/-- `pair(i)` (R228). -/
def pairOp (i : Nat) : Seq Nat := do
  let s ← get
  checkIndex s.n.toNat (capMax s.par + 1)
  pure (pairAt s.block s.n.toNat i)

/-- The count, the ends and the fill of the bucket pass (R228). -/
def bucketFillOp : Seq Unit := do
  let s ← get
  loopUp (fun j => writeFtab j 0#32) 0 (numBuckets + 1)
  loopUp (fun i => do
    let j ← pairOp i
    let c ← readFtab j
    writeFtab j (c + 1#32)) 0 s.n.toNat
  loopUp (fun j => do
    let c ← readFtab j
    let b ← readFtab (j - 1)
    writeFtab j (c + b)) 1 (numBuckets - 1)
  writeFtab numBuckets s.n
  loopDown (fun i => do
    let j ← pairOp i
    let c ← readFtab j
    writeFtab j (c - 1#32)
    writeZptr (c - 1#32).toNat (BitVec.ofNat 32 i)) s.n.toNat

/-- One bucket of the last loop of `bwt.bucket_sort` (R228). -/
def sortBucket (j : Nat) : Seq Unit := do
  let lo ← readFtab j
  let e ← readFtab (j + 1)
  if lo.toNat + 1 < e.toNat then qsortOp lo (e - 1#32) else pure ()

/-- `bwt.bucket_sort` (R228). -/
def bucketSortOp : Seq Unit := do
  buildPadOp
  bucketFillOp
  loopUp sortBucket 0 numBuckets

/-! ## The forward transform -/

/-- The search of `bwt.find_origptr` (R237) from place `k`, over `fuel` places. -/
def findOrigptrFrom : Nat → Nat → Seq Unit
  | _, 0 => raise .origptrNotFound
  | k, fuel + 1 => do
    let z ← readZptr k
    if z = 0#32 then modify fun s => { s with origptr := BitVec.ofNat 32 k }
    else findOrigptrFrom (k + 1) fuel

/-- `bwt.find_origptr` (R237). -/
def findOrigptrOp : Seq Unit := do
  let s ← get
  findOrigptrFrom 0 s.n.toNat

/-- `bwt.sort` (R220). -/
def sortOp : Seq Unit := do
  let s ← get
  if s.n.toNat ≤ smallSortMax then smallSortOp else bucketSortOp
  findOrigptrOp

/-! ## The inverse transform -/

/-- One pass of the count of `bwt.inverse` (R240). -/
def inverseCount (i : Nat) : Seq Unit := do
  let b ← readLl i
  let c ← readCc b
  writeNext i c
  writeCc b (c + 1#32)

/-- The exclusive prefix sums of CC (R240) from byte value `v` on. -/
def inversePrefix : Nat → Nat → Word → Seq Unit
  | _, 0, _ => pure ()
  | v, fuel + 1, sum => do
    let t ← readCc (BitVec.ofNat 8 v)
    writeCc (BitVec.ofNat 8 v) sum
    inversePrefix (v + 1) fuel (sum + t)

/-- The walk of `bwt.inverse` (R240, R241), `BLOCK[j - 1]` down to `BLOCK[0]`. -/
def inverseWalk : Nat → Word → Seq Unit
  | 0, _ => pure ()
  | j + 1, i => do
    let s ← get
    if s.n ≤ i then raise .badOrigptr else pure ()
    let b ← readLl i.toNat
    writeBlock j b
    let x ← readNext i.toNat
    let c ← readCc b
    inverseWalk j (x + c)

/-- `bwt.inverse` (R240). -/
def inverseOp : Seq Unit := do
  let s ← get
  loopUp (fun v => writeCc (BitVec.ofNat 8 v) 0#32) 0 256
  loopUp inverseCount 0 s.n.toNat
  inversePrefix 0 256 0#32
  inverseWalk s.n.toNat s.origptr

/-! ## Meanings -/

/-- A truth value as a returned word. -/
def boolWord (b : Bool) : List Word := [(BitVec.ofBool b).zeroExtend 32]

/-- Meaning of `bwt.sort` (R220). -/
def execBwtSort (s : State) : Host.Outcome State Fault Refusal := perform sortOp s

/-- Meaning of `build_pad` (R224). -/
def execBwtBuildPad (s : State) : Host.Outcome State Fault Refusal := perform buildPadOp s

/-- Meaning of `bwt.small_sort` (R225). -/
def execBwtSmallSort (s : State) : Host.Outcome State Fault Refusal := perform smallSortOp s

/-- Meaning of `trivial_gt` (R226). -/
def execBwtTrivialGt (a b : Word) (s : State) : Host.Outcome State Fault Refusal :=
  performValue boolWord (trivialGtOp a b) s

/-- Meaning of `full_gt` (R230). -/
def execBwtFullGt (a b : Word) (s : State) : Host.Outcome State Fault Refusal :=
  performValue boolWord (fullGtOp a b) s

/-- Meaning of `bwt.bucket_sort` (R228). -/
def execBwtBucketSort (s : State) : Host.Outcome State Fault Refusal := perform bucketSortOp s

/-- Meaning of `bwt.qsort` (R231). -/
def execBwtQsort (lo hi : Word) (s : State) : Host.Outcome State Fault Refusal :=
  perform (qsortOp lo hi) s

/-- Meaning of `median3` (R232). -/
def execBwtMedian3 (a b c : Word) (s : State) : Host.Outcome State Fault Refusal :=
  performValue (fun w => [w]) (median3Op a b c) s

/-- Meaning of `partition` (R233); it returns `(i, j)`. -/
def execBwtPartition (lo hi p : Word) (s : State) : Host.Outcome State Fault Refusal :=
  performValue (fun ij => [BitVec.ofNat 32 ij.1, BitVec.ofInt 32 ij.2]) (partitionOp lo hi p) s

/-- Meaning of `insertion` (R234). -/
def execBwtInsertion (lo hi : Word) (s : State) : Host.Outcome State Fault Refusal :=
  perform (insertionOp lo hi) s

/-- Meaning of `bwt.find_origptr` (R237). -/
def execBwtFindOrigptr (s : State) : Host.Outcome State Fault Refusal := perform findOrigptrOp s

/-- Meaning of `bwt.inverse` (R240). -/
def execBwtInverse (s : State) : Host.Outcome State Fault Refusal := perform inverseOp s

end Sys2Proof.Machine
end

