-- ==== Sys2Proof/Machine/Rle.lean ====
section
/-! DEFINITION. RLE1 and the spot perturbation (45_rle_spot.md R260 to R279). -/

namespace Sys2Proof.Machine

/-! ## Loading a block -/

/-- `BLOCK[n] <- b; n <- n + 1` (R262). -/
def appendBlock (b : Byte) : Seq Unit := do
  let s ← get
  writeBlock s.pos.toNat b
  modify fun s => { s with pos := s.pos + 1#32 }

/-- A short unit: `r` copies of `c` (R105, R262). -/
def emitShortOp (c : Byte) (r : Nat) : Seq Unit := repeatTimes (appendBlock c) r

/-- A long unit: four copies of `c` and the count (R105, R262). -/
def emitLongOp (c count : Byte) : Seq Unit := do
  repeatTimes (appendBlock c) runMin
  appendBlock count

/-- The sentinel, which marks the block final (R106, R262). -/
def emitSentinelOp : Seq Unit := do
  appendBlock sentinel
  modify fun s => { s with finalBlock := true }

/-- The unit of a run of `run` copies of `c` (R105, R262). -/
def emitRunOp (c : Byte) (run : Nat) : Seq Unit :=
  if run < runMin then emitShortOp c run else emitLongOp c (BitVec.ofNat 8 (run - runMin))

/-- The first byte of the next run (R262): LA_BYTE if LA_VALID, else a pull; `none` is EOD, and then
SRC_EOD is set. -/
def firstOfRun : Seq (Option Byte) := do
  let s ← get
  if s.laValid then do
    set { s with laValid := false }
    pure (some s.laByte)
  else do
    let x ← pullByte
    match x with
    | some b => pure (some b)
    | none => do
      modify fun s => { s with srcEod := true }
      pure none

/-- `while run < 255` of R262: `room = 255 - run` pulls at most; the length reached. -/
def extendRun (c : Byte) : Nat → Nat → Seq Nat
  | 0, run => pure run
  | room + 1, run => do
    let x ← pullByte
    match x with
    | none => do
      modify fun s => { s with srcEod := true }
      pure run
    | some b =>
      if b = c then extendRun c room (run + 1)
      else do
        modify fun s => { s with laByte := b, laValid := true }
        pure run

/-- One pass of the loop of `rle1.load` (R262); true when the loop is left. -/
def loadPass : Seq Bool := do
  let s ← get
  if blockFull s s.pos.toNat then pure true
  else do
    let x ← firstOfRun
    match x with
    | none => do
      emitSentinelOp
      pure true
    | some c => do
      let run ← extendRun c (runCap - 1) 1
      emitRunOp c run
      let s ← get
      if s.srcEod then do
        emitSentinelOp
        pure true
      else pure false

/-- The loop of `rle1.load` (R262): every pass lengthens the block, so `CAP + 1` passes are enough. -/
def loadLoop : Nat → Seq Unit
  | 0 => defect .endless
  | fuel + 1 => do
    let leave ← loadPass
    if leave then pure () else loadLoop fuel

/-- `rle1.load` (R262). -/
def loadOp : Seq Unit := do
  modify fun s => { s with pos := 0#32, finalBlock := false }
  let s ← get
  loadLoop (capOf s + 1)
  modify fun s => { s with n := s.pos }

/-! ## Unloading a block -/

/-- The scan of `rle1.unload` over `BLOCK[i..m)` with the run counter `cnt` and the byte `prev` (R267);
every pass raises `i`, so `fuel = m - i` passes reach the end. -/
def unloadLoop (m : Nat) : Nat → Nat → Nat → Byte → Seq Unit
  | 0, _, _, _ => pure ()
  | fuel + 1, i, cnt, prev =>
    if m ≤ i then pure ()
    else do
      let b ← readBlock i
      pushByte b
      let cnt' := if 0 < cnt ∧ b = prev then cnt + 1 else 1
      if cnt' = runMin then do
        if m ≤ i + 1 then raise .badRle1 else pure ()
        let k ← readBlock (i + 1)
        repeatTimes (pushByte b) k.toNat
        unloadLoop m fuel (i + 2) 0 b
      else unloadLoop m fuel (i + 1) cnt' b

/-- `rle1.unload` (R267, R270): the sentinel check comes before anything is pushed. -/
def unloadOp : Seq Unit := do
  let s ← get
  let n := s.n.toNat
  if s.finalBlock then do
    checkIndex 0 n
    let last ← readBlock (n - 1)
    if last ≠ sentinel then raise .badSentinel else pure ()
    unloadLoop (n - 1) (n - 1) 0 0 0#8
  else unloadLoop n n 0 0 0#8

/-! ## Spot perturbation -/

/-- One visit of `spot.apply` and the step to the next position (R275). -/
def spotVisit (delta : SpotDelta) : Seq Unit := do
  let s ← get
  let b ← readBlock s.spos.toNat
  writeBlock s.spos.toNat (spotByte delta b)
  modify fun s =>
    { s with
      sidx := if s.sidx = 9#4 then 0#4 else s.sidx + 1#4
      spos := s.spos + BitVec.ofNat 32 (spotStep (spotSeq.getD s.sidx.toNat 0)) }

/-- `while SPOS < N - 1` of `spot.apply` (R275), at most `fuel` tests. -/
def spotLoop (delta : SpotDelta) : Nat → Seq Unit
  | 0 => defect .endless
  | fuel + 1 => do
    let s ← get
    if s.spos.toNat + 1 < s.n.toNat then do
      spotVisit delta
      spotLoop delta fuel
    else pure ()

/-- `spot.apply(delta)` (R275); every visit raises SPOS, so `N + 1` tests are enough. -/
def spotApplyOp (delta : SpotDelta) : Seq Unit := do
  modify fun s => { s with spos := BitVec.ofNat 32 spotBase, sidx := 0#4 }
  let s ← get
  spotLoop delta (s.n.toNat + 1)

/-! ## Meanings -/

/-- Meaning of `rle1.load` (R262). -/
def execRle1Load (s : State) : Host.Outcome State Fault Refusal := perform loadOp s

/-- Meaning of `rle1.unload` (R267). -/
def execRle1Unload (s : State) : Host.Outcome State Fault Refusal := perform unloadOp s

/-- Meaning of `spot.apply` (R275). -/
def execSpotApply (delta : SpotDelta) (s : State) : Host.Outcome State Fault Refusal :=
  perform (spotApplyOp delta) s

end Sys2Proof.Machine
end

