-- ==== Sys2Proof/Machine/Stream.lean ====
section
/-! DEFINITION. The items of the compressed stream and of a block: the basis symbols (30_encoding.md R100 to
R102), the stream fields (R96, R103, R104) and the RLE1 units (R105, R106).  Each one is SENT, or, when MODE
is decompress, RECEIVED: what the core does with the item once it has it (log entry 12). -/

namespace Sys2Proof.Machine

/-- An item by the direction of the run. -/
def sendOrReceive (send receive : Seq Unit) : Seq Unit := do
  let s ← get
  if s.mode = .decompress then receive else send

/-- A basis symbol: coded through BASIS (R156), or treated as `mtf.decode_block` treats it (R200). -/
def basisOp (sym : Nat) : Seq Unit :=
  sendOrReceive (encodeOp basisModel sym) (do
    let _ ← basisReceived sym
    pure ())

/-- The magic sent: 32 raw bits, bit 31 first (R96, R301). -/
def magicSent (lvl : BitVec 4) : Seq Unit :=
  pushBits (wordBits (magicBase + lvl.zeroExtend 32))

/-- The magic judged once its 32 bits are there (R310), in the written order. -/
def magicReceived (w : Word) : Seq Unit := do
  if w.extractLsb' 24 8 ≠ 0x42#8 ∨ w.extractLsb' 16 8 ≠ 0x5A#8 then raise .badMagic else pure ()
  if w.extractLsb' 8 8 ≠ 0x30#8 then raise .badMagic else pure ()
  if w.extractLsb' 0 8 < 0x31#8 ∨ 0x39#8 < w.extractLsb' 0 8 then raise .badMagic else pure ()
  modify fun s => { s with level := w.extractLsb' 0 4 }
  let s ← get
  if s.par.maxLevel < s.level.toNat then raise .resource else pure ()

/-- The stored checksum received and compared (R315). -/
def crcReceived (w : Word) : Seq Unit := do
  let c ← crcFinalOp
  if w ≠ c then raise .crcMismatch else pure ()

/-- The bytes of a unit received: pushed on BYTE_OUT (R267). -/
def unitReceived (c : Byte) (copies : Nat) : Seq Unit := repeatTimes (pushByte c) copies

/-! ## Meanings: format BASIS -/

/-- Meaning of RUNA, symbol 0 (R100, R102). -/
def execBasisRuna (s : State) : Host.Outcome State Fault Refusal := perform (basisOp 0) s
/-- Meaning of RUNB, symbol 1 (R100, R102). -/
def execBasisRunb (s : State) : Host.Outcome State Fault Refusal := perform (basisOp 1) s
/-- Meaning of ONE, symbol 2 (R100, R101). -/
def execBasisOne (s : State) : Host.Outcome State Fault Refusal := perform (basisOp 2) s
/-- Meaning of 2_3, symbol 3 (R100, R101). -/
def execBasis2To3 (s : State) : Host.Outcome State Fault Refusal := perform (basisOp 3) s
/-- Meaning of 4_7, symbol 4 (R100, R101). -/
def execBasis4To7 (s : State) : Host.Outcome State Fault Refusal := perform (basisOp 4) s
/-- Meaning of 8_15, symbol 5 (R100, R101). -/
def execBasis8To15 (s : State) : Host.Outcome State Fault Refusal := perform (basisOp 5) s
/-- Meaning of 16_31, symbol 6 (R100, R101). -/
def execBasis16To31 (s : State) : Host.Outcome State Fault Refusal := perform (basisOp 6) s
/-- Meaning of 32_63, symbol 7 (R100, R101). -/
def execBasis32To63 (s : State) : Host.Outcome State Fault Refusal := perform (basisOp 7) s
/-- Meaning of 64_127, symbol 8 (R100, R101). -/
def execBasis64To127 (s : State) : Host.Outcome State Fault Refusal := perform (basisOp 8) s
/-- Meaning of 128_255, symbol 9 (R100, R101). -/
def execBasis128To255 (s : State) : Host.Outcome State Fault Refusal := perform (basisOp 9) s
/-- Meaning of EOB, symbol 10 (R100, R195). -/
def execBasisEob (s : State) : Host.Outcome State Fault Refusal := perform (basisOp 10) s

/-! ## Meanings: format STREAM -/

/-- Meaning of the magic (R96): sent raw, or judged as received (R310). -/
def execStreamMagic (lvl : BitVec 4) (s : State) : Host.Outcome State Fault Refusal :=
  perform (sendOrReceive (magicSent lvl) (magicReceived (magicBase + lvl.zeroExtend 32))) s

/-- Meaning of the `origPtr` word (R104): sent by `ac.put_u32` (R197), or received, which sets FINAL
(R200). -/
def execStreamOrigword (w : Word) (s : State) : Host.Outcome State Fault Refusal :=
  perform (sendOrReceive (putU32Op w) (do
    let mag ← origwordReceived w
    modify fun s => { s with result := [mag] })) s

/-- Meaning of the stored checksum (R103): sent by `ac.put_u32` (R306), or received and compared
(R315). -/
def execStreamCrc32 (w : Word) (s : State) : Host.Outcome State Fault Refusal :=
  perform (sendOrReceive (putU32Op w) (crcReceived w)) s

/-! ## Meanings: format BLOCK -/

/-- Meaning of a short unit (R105): put into the block, or its bytes pushed. -/
def execRle1Short (c : Byte) (r : BitVec 2) (s : State) : Host.Outcome State Fault Refusal :=
  perform (sendOrReceive (emitShortOp c r.toNat) (unitReceived c r.toNat)) s

/-- Meaning of a long unit (R105): put into the block, or its `4 + count` bytes pushed (R267, R268). -/
def execRle1Long (c count : Byte) (s : State) : Host.Outcome State Fault Refusal :=
  perform (sendOrReceive (emitLongOp c count) (unitReceived c (runMin + count.toNat))) s

/-- Meaning of the sentinel (R106): put at the end of the final block, or "removed, not emitted, by
UNRLE". -/
def execRle1Sentinel (s : State) : Host.Outcome State Fault Refusal :=
  perform (sendOrReceive emitSentinelOp (pure ())) s

end Sys2Proof.Machine
end

