-- ==== Sys2Proof/Machine/Phases.lean ====
section
/-! DEFINITION. The phases of the sequencer (46_pipeline.md R291, R300 to R315), the end of a run (R335) and
the phase transition (R300). -/

namespace Sys2Proof.Machine

/-- HEADER_C (R301). -/
def headerCOp : Seq Unit := do
  let s ← get
  if s.par.maxLevel < s.level.toNat then raise .resource else pure ()
  crcInitOp
  modify fun s => { s with laValid := false, srcEod := false }
  encInitOp
  let s ← get
  magicSent s.level

/-- TRAILER_C before the end of the run (R306). -/
def trailerCOp : Seq Unit := do
  let w ← crcFinalOp
  putU32Op w
  encFlushOp

/-- HEADER_D (R310): all 32 bits are pulled before any is judged. -/
def headerDOp : Seq Unit := do
  let w ← pullWordBits 32 0#32
  magicReceived w
  crcInitOp
  decStartOp

/-- TRAILER_D before the end of the run (R315). -/
def trailerDOp : Seq Unit := do
  let w ← getU32Op
  crcReceived w

/-- Meaning of IDLE (R291): nothing. -/
def execPhaseIdle (s : State) : Host.Outcome State Fault Refusal := .next s

/-- Meaning of HEADER_C (R301). -/
def execPhaseHeaderC (s : State) : Host.Outcome State Fault Refusal := performPhase headerCOp s

/-- Meaning of LOAD_RLE (R302). -/
def execPhaseLoadRle (s : State) : Host.Outcome State Fault Refusal := performPhase loadOp s

/-- Meaning of SPOT (R303). -/
def execPhaseSpot (s : State) : Host.Outcome State Fault Refusal :=
  performPhase (spotApplyOp .plus) s

/-- Meaning of SORT (R304). -/
def execPhaseSort (s : State) : Host.Outcome State Fault Refusal := performPhase sortOp s

/-- Meaning of ENCODE (R305). -/
def execPhaseEncode (s : State) : Host.Outcome State Fault Refusal := performPhase encodeBlockOp s

/-- Meaning of TRAILER_C (R306). -/
def execPhaseTrailerC (s : State) : Host.Outcome State Fault Refusal := performPhase trailerCOp s

/-- Meaning of HEADER_D (R310). -/
def execPhaseHeaderD (s : State) : Host.Outcome State Fault Refusal := performPhase headerDOp s

/-- Meaning of DECODE (R311). -/
def execPhaseDecode (s : State) : Host.Outcome State Fault Refusal := performPhase decodeBlockOp s

/-- Meaning of INVERT_SORT (R312). -/
def execPhaseInvertSort (s : State) : Host.Outcome State Fault Refusal := performPhase inverseOp s

/-- Meaning of UNSPOT (R313). -/
def execPhaseUnspot (s : State) : Host.Outcome State Fault Refusal :=
  performPhase (spotApplyOp .minus) s

/-- Meaning of UNRLE (R314). -/
def execPhaseUnrle (s : State) : Host.Outcome State Fault Refusal := performPhase unloadOp s

/-- Meaning of TRAILER_D (R315). -/
def execPhaseTrailerD (s : State) : Host.Outcome State Fault Refusal := performPhase trailerDOp s

/-- Meaning of `run.end` (R335). -/
def execRunEnd (s : State) : Host.Outcome State Fault Refusal := .next (endRun s)

/-- Meaning of `phase.next` (R300). -/
def execPhaseNext (s : State) : Host.Outcome State Fault Refusal := .next (nextPhase s)

end Sys2Proof.Machine
end

