-- ==== Sys2Proof/Machine/Faults.lean ====
section
/-! DEFINITION. The twelve faults (60_exceptions.md R341 to R354), each TAKEN by the one fault entry of
Machine/Ops.lean (R352), and `fault.entry` itself. -/

namespace Sys2Proof.Machine

/-- Meaning of badMagic (R342, R352). -/
def execFaultBadMagic (s : State) : Host.Outcome State Fault Refusal := perform (raise (α := Unit) .badMagic) s

/-- Meaning of truncated (R343, R352). -/
def execFaultTruncated (s : State) : Host.Outcome State Fault Refusal := perform (raise (α := Unit) .truncated) s

/-- Meaning of blockOverrun (R344, R352). -/
def execFaultBlockOverrun (s : State) : Host.Outcome State Fault Refusal := perform (raise (α := Unit) .blockOverrun) s

/-- Meaning of badSentinel (R345, R352). -/
def execFaultBadSentinel (s : State) : Host.Outcome State Fault Refusal := perform (raise (α := Unit) .badSentinel) s

/-- Meaning of crcMismatch (R346, R352). -/
def execFaultCrcMismatch (s : State) : Host.Outcome State Fault Refusal := perform (raise (α := Unit) .crcMismatch) s

/-- Meaning of badOrigptr (R347, R352). -/
def execFaultBadOrigptr (s : State) : Host.Outcome State Fault Refusal := perform (raise (α := Unit) .badOrigptr) s

/-- Meaning of badRle1 (R348, R352). -/
def execFaultBadRle1 (s : State) : Host.Outcome State Fault Refusal := perform (raise (α := Unit) .badRle1) s

/-- Meaning of resource (R349, R352). -/
def execFaultResource (s : State) : Host.Outcome State Fault Refusal := perform (raise (α := Unit) .resource) s

/-- Meaning of modelSymbolRange (R350, R352). -/
def execFaultModelSymbolRange (s : State) : Host.Outcome State Fault Refusal := perform (raise (α := Unit) .modelSymbolRange) s

/-- Meaning of bitsRunaway (R351, R352). -/
def execFaultBitsRunaway (s : State) : Host.Outcome State Fault Refusal := perform (raise (α := Unit) .bitsRunaway) s

/-- Meaning of origptrNotFound (R353, R352). -/
def execFaultOrigptrNotFound (s : State) : Host.Outcome State Fault Refusal := perform (raise (α := Unit) .origptrNotFound) s

/-- Meaning of illegalCmd (R354, R352). -/
def execFaultIllegalCmd (s : State) : Host.Outcome State Fault Refusal := perform (raise (α := Unit) .illegalCmd) s

/-- Meaning of `fault.entry` (R352). -/
def execFaultEntry (f : FaultCode) (s : State) : Host.Outcome State Fault Refusal :=
  .next (takeFault f s)

end Sys2Proof.Machine
end

