-- ==== Sys2Proof/Machine/Commands.lean ====
section
/-! DEFINITION. The four host commands (46_pipeline.md R290 to R296).  Acceptance (R290) is part of each
meaning: while BUSY = 1 or FAULT = 1 every command but ABORT is dropped. -/

namespace Sys2Proof.Machine

/-- COMPRESS accepted (R292): the run gets its own stream at BYTE_IN (R297). -/
def acceptCompress (lvl : BitVec 4) (s : State) : State :=
  { giveByteStream s with
    level := lvl, mode := .compress, finalBlock := false
    done := false, busy := true, phase := .headerC }

/-- DECOMPRESS accepted (R293): the run gets its own stream at BIT_IN (R297). -/
def acceptDecompress (s : State) : State :=
  { giveBitStream s with
    level := 0#4, mode := .decompress, finalBlock := false
    done := false, busy := true, phase := .headerD }

/-- A command word that matches no row of R91 (R290, R296). -/
def illegalCommand (s : State) : State :=
  if commandsDropped s then s else takeFault .illegalCmd s

/-- Meaning of NOP (R295): no state changes. -/
def execNop (s : State) : Host.Outcome State Fault Refusal := .next s

/-- Meaning of COMPRESS (R290, R292).  A level outside 1..9 is the operand of no legal word: its word is an
illegal command (R92, R296; log entry 17). -/
def execCompress (lvl : BitVec 4) (s : State) : Host.Outcome State Fault Refusal :=
  if commandsDropped s then .next s
  else if levelOk lvl then .next (acceptCompress lvl s)
  else .next (illegalCommand s)

/-- Meaning of DECOMPRESS (R290, R293). -/
def execDecompress (s : State) : Host.Outcome State Fault Refusal :=
  if commandsDropped s then .next s else .next (acceptDecompress s)

/-- Meaning of ABORT (R290, R294): accepted in every state. -/
def execAbort (s : State) : Host.Outcome State Fault Refusal := .next (clearedState s)

end Sys2Proof.Machine
end

