-- ==== Sys2Proof/Machine/Dispatch.lean ====
section
/-! DEFINITION. The dispatch: one arm per constructor of Instr, each a direct call of its meaning. -/

namespace Sys2Proof.Machine

def exec (i : Instr) (s : State) : Host.Outcome State Fault Refusal :=
  match i with
  | .nop => Sys2Proof.Machine.execNop s
  | .compress lvl => Sys2Proof.Machine.execCompress lvl s
  | .decompress => Sys2Proof.Machine.execDecompress s
  | .abort => Sys2Proof.Machine.execAbort s
  | .phaseIdle => Sys2Proof.Machine.execPhaseIdle s
  | .phaseHeaderC => Sys2Proof.Machine.execPhaseHeaderC s
  | .phaseLoadRle => Sys2Proof.Machine.execPhaseLoadRle s
  | .phaseSpot => Sys2Proof.Machine.execPhaseSpot s
  | .phaseSort => Sys2Proof.Machine.execPhaseSort s
  | .phaseEncode => Sys2Proof.Machine.execPhaseEncode s
  | .phaseTrailerC => Sys2Proof.Machine.execPhaseTrailerC s
  | .phaseHeaderD => Sys2Proof.Machine.execPhaseHeaderD s
  | .phaseDecode => Sys2Proof.Machine.execPhaseDecode s
  | .phaseInvertSort => Sys2Proof.Machine.execPhaseInvertSort s
  | .phaseUnspot => Sys2Proof.Machine.execPhaseUnspot s
  | .phaseUnrle => Sys2Proof.Machine.execPhaseUnrle s
  | .phaseTrailerD => Sys2Proof.Machine.execPhaseTrailerD s
  | .faultBadMagic => Sys2Proof.Machine.execFaultBadMagic s
  | .faultTruncated => Sys2Proof.Machine.execFaultTruncated s
  | .faultBlockOverrun => Sys2Proof.Machine.execFaultBlockOverrun s
  | .faultBadSentinel => Sys2Proof.Machine.execFaultBadSentinel s
  | .faultCrcMismatch => Sys2Proof.Machine.execFaultCrcMismatch s
  | .faultBadOrigptr => Sys2Proof.Machine.execFaultBadOrigptr s
  | .faultBadRle1 => Sys2Proof.Machine.execFaultBadRle1 s
  | .faultResource => Sys2Proof.Machine.execFaultResource s
  | .faultModelSymbolRange => Sys2Proof.Machine.execFaultModelSymbolRange s
  | .faultBitsRunaway => Sys2Proof.Machine.execFaultBitsRunaway s
  | .faultOrigptrNotFound => Sys2Proof.Machine.execFaultOrigptrNotFound s
  | .faultIllegalCmd => Sys2Proof.Machine.execFaultIllegalCmd s
  | .basisRuna => Sys2Proof.Machine.execBasisRuna s
  | .basisRunb => Sys2Proof.Machine.execBasisRunb s
  | .basisOne => Sys2Proof.Machine.execBasisOne s
  | .basis2To3 => Sys2Proof.Machine.execBasis2To3 s
  | .basis4To7 => Sys2Proof.Machine.execBasis4To7 s
  | .basis8To15 => Sys2Proof.Machine.execBasis8To15 s
  | .basis16To31 => Sys2Proof.Machine.execBasis16To31 s
  | .basis32To63 => Sys2Proof.Machine.execBasis32To63 s
  | .basis64To127 => Sys2Proof.Machine.execBasis64To127 s
  | .basis128To255 => Sys2Proof.Machine.execBasis128To255 s
  | .basisEob => Sys2Proof.Machine.execBasisEob s
  | .streamMagic lvl => Sys2Proof.Machine.execStreamMagic lvl s
  | .streamOrigword w => Sys2Proof.Machine.execStreamOrigword w s
  | .streamCrc32 w => Sys2Proof.Machine.execStreamCrc32 w s
  | .rle1Short c r => Sys2Proof.Machine.execRle1Short c r s
  | .rle1Long c count => Sys2Proof.Machine.execRle1Long c count s
  | .rle1Sentinel => Sys2Proof.Machine.execRle1Sentinel s
  | .crcInit => Sys2Proof.Machine.execCrcInit s
  | .crcUpdate b => Sys2Proof.Machine.execCrcUpdate b s
  | .crcFinal => Sys2Proof.Machine.execCrcFinal s
  | .modelInit m => Sys2Proof.Machine.execModelInit m s
  | .modelUpdate m sym => Sys2Proof.Machine.execModelUpdate m sym s
  | .modelRescale m => Sys2Proof.Machine.execModelRescale m s
  | .acEncInit => Sys2Proof.Machine.execAcEncInit s
  | .acEncode m sym => Sys2Proof.Machine.execAcEncode m sym s
  | .acBitPlusFollow b => Sys2Proof.Machine.execAcBitPlusFollow b s
  | .acEncRenorm => Sys2Proof.Machine.execAcEncRenorm s
  | .acEncFlush => Sys2Proof.Machine.execAcEncFlush s
  | .acDecStart => Sys2Proof.Machine.execAcDecStart s
  | .acDecode m => Sys2Proof.Machine.execAcDecode m s
  | .acPutU8 b => Sys2Proof.Machine.execAcPutU8 b s
  | .acPutU32 w => Sys2Proof.Machine.execAcPutU32 w s
  | .acGetU8 => Sys2Proof.Machine.execAcGetU8 s
  | .acGetU32 => Sys2Proof.Machine.execAcGetU32 s
  | .mtfInit => Sys2Proof.Machine.execMtfInit s
  | .mtfRank b => Sys2Proof.Machine.execMtfRank b s
  | .mtfTake v => Sys2Proof.Machine.execMtfTake v s
  | .mtfSendZeroes k => Sys2Proof.Machine.execMtfSendZeroes k s
  | .mtfSendVal v => Sys2Proof.Machine.execMtfSendVal v s
  | .mtfSendEob => Sys2Proof.Machine.execMtfSendEob s
  | .mtfEncodeBlock => Sys2Proof.Machine.execMtfEncodeBlock s
  | .mtfDecodeBlock => Sys2Proof.Machine.execMtfDecodeBlock s
  | .mtfAbsorb d => Sys2Proof.Machine.execMtfAbsorb d s
  | .mtfCheckOrigptr mag => Sys2Proof.Machine.execMtfCheckOrigptr mag s
  | .bwtSort => Sys2Proof.Machine.execBwtSort s
  | .bwtBuildPad => Sys2Proof.Machine.execBwtBuildPad s
  | .bwtSmallSort => Sys2Proof.Machine.execBwtSmallSort s
  | .bwtTrivialGt a b => Sys2Proof.Machine.execBwtTrivialGt a b s
  | .bwtFullGt a b => Sys2Proof.Machine.execBwtFullGt a b s
  | .bwtBucketSort => Sys2Proof.Machine.execBwtBucketSort s
  | .bwtQsort lo hi => Sys2Proof.Machine.execBwtQsort lo hi s
  | .bwtMedian3 a b c => Sys2Proof.Machine.execBwtMedian3 a b c s
  | .bwtPartition lo hi p => Sys2Proof.Machine.execBwtPartition lo hi p s
  | .bwtInsertion lo hi => Sys2Proof.Machine.execBwtInsertion lo hi s
  | .bwtFindOrigptr => Sys2Proof.Machine.execBwtFindOrigptr s
  | .bwtInverse => Sys2Proof.Machine.execBwtInverse s
  | .rle1Load => Sys2Proof.Machine.execRle1Load s
  | .rle1Unload => Sys2Proof.Machine.execRle1Unload s
  | .spotApply delta => Sys2Proof.Machine.execSpotApply delta s
  | .faultEntry f => Sys2Proof.Machine.execFaultEntry f s
  | .runEnd => Sys2Proof.Machine.execRunEnd s
  | .phaseNext => Sys2Proof.Machine.execPhaseNext s

end Sys2Proof.Machine
end

