-- ==== Sys2Proof/Machine/Fetch.lean ====
section
/-! DEFINITION. What the core does next: a host or environment act (30_encoding.md R93, 46_pipeline.md R290,
10_state.md R21), or the sequencer's own step, the phase PHASE names (R300).  Step.lean only calls this
file. -/

namespace Sys2Proof.Machine

/-! ## The sequencer -/

/-- Perform the instruction a coded item decodes to. -/
def performCode (c : Code) (s : State) : Host.Outcome State Fault Refusal :=
  match decode c with
  | .ok i => exec i s
  | .error e => .refused (.noSuchCode e)

/-- The coded item the sequencer performs next: the latch if it is set (log entry 3), else the code of the
phase PHASE names while BUSY = 1 (R300), else IDLE (R291). -/
def fetchCode (s : State) : Code :=
  match s.latch with
  | some c => c
  | none => .phase (phaseCode (if s.busy then s.phase else .idle))

/-- One step of the sequencer; after a fault it is inert (R291, R352). -/
def sequencerStep (s : State) : Host.Outcome State Fault Refusal :=
  if s.fault then .next s else performCode (fetchCode s) { s with latch := none }

/-! ## The host register file -/

/-- A host write to CMD (R290): the word's command, or ILLEGAL_CMD (R296). -/
def writeCmd (w : Word) (s : State) : Host.Outcome State Fault Refusal :=
  match decode (.cmd w) with
  | .ok i => exec i s
  | .error _ => .next (illegalCommand s)

/-- A host write (R21): "Host writes to registers 1 to 6 are ignored", and so are those to 7 and above. -/
def hostWrite (reg : Nat) (w : Word) (s : State) : Host.Outcome State Fault Refusal :=
  if reg = 0 then writeCmd w s else .next s

/-- CRC, N or ORIGPTR as the host reads it: exact while BUSY = 0, a free word while BUSY = 1 (R21, U3). -/
def readDataReg (v : Word) (s : State) : State :=
  if s.busy then { s with hostData := Config.freeWord s.freeCount, freeCount := s.freeCount + 1 }
  else { s with hostData := v }

/-- A host read (R21): CMD and the registers from 7 on read 0; STATUS, ERR and LEVEL are exact. -/
def hostRead (reg : Nat) (s : State) : State :=
  match reg with
  | 1 => { s with hostData := statusWord s }
  | 2 => { s with hostData := s.err.zeroExtend 32 }
  | 3 => { s with hostData := s.level.zeroExtend 32 }
  | 4 => readDataReg s.crc s
  | 5 => readDataReg s.n s
  | 6 => readDataReg s.origptr s
  | _ => { s with hostData := 0#32 }

/-! ## ABORT within a step (R294, U4) -/

/-- How many items of an input port were pulled when the step is cut after `k` transactions: all that are
there if the step waits for more. -/
def pulledItems (k before after : Nat) (waits : Bool) : Nat :=
  min k (if waits then before else before - after)

/-- The state `s` reset, with the port transactions of the step from `s` to `t` cut after the `k`-th: "the
output pushed before it is some prefix of the run's output" (R294).  No phase both pulls and pushes. -/
def cutShort (k : Nat) (s t : State) : State :=
  let waits := t.busy && decide (t.phase = s.phase)
  clearedState
    { s with
      bitOut := s.bitOut ++ (t.bitOut.drop s.bitOut.length).take k
      byteOut := s.byteOut ++ (t.byteOut.drop s.byteOut.length).take k
      byteIn :=
        s.byteIn.drop (pulledItems k s.byteIn.length t.byteIn.length (waits && s.mode = .compress))
      bitIn :=
        s.bitIn.drop (pulledItems k s.bitIn.length t.bitIn.length (waits && s.mode = .decompress)) }

/-- ABORT written while the sequencer performs its step (R294). -/
def abortDuring (k : Nat) (s : State) : Host.Outcome State Fault Refusal :=
  match sequencerStep s with
  | .next t => .next (cutShort k s t)
  | .fault f => .fault f
  | .refused r => .refused r

/-! ## The whole -/

/-- Both input ports emptied (U21), streams to come and all. -/
def dropInput (s : State) : State :=
  { s with
    byteIn := [], byteInEod := false, byteInLater := []
    bitIn := [], bitInEod := false, bitInLater := [] }

/-- One act of the host or the environment; `s` is the state with the act taken off the list, and `waiting`
the state with it still there. -/
def hostAct (e : HostEvent) (waiting s : State) : Host.Outcome State Fault Refusal :=
  match e with
  | .write reg w => hostWrite reg w s
  | .abortAfter k => abortDuring k s
  | .read reg => .next (hostRead reg s)
  | .feedBytes bytes eod => .next (feedByteIn bytes eod s)
  | .feedBits bits eod => .next (feedBitIn bits eod s)
  | .dropInput => .next (dropInput s)
  | .wait => if s.busy then sequencerStep waiting else .next s
  | .gap => sequencerStep s
  | .reset => .next (clearedState s)

/-- One step of the machine: the next act of the host or the environment, or, when there is none, the
sequencer's. -/
def stepOnce (s : State) : Host.Outcome State Fault Refusal :=
  match s.host with
  | [] => sequencerStep s
  | e :: rest => hostAct e s { s with host := rest }

/-- `s` with a word of the opcode table put where `stepOnce` takes its next instruction from: a command word
is written to CMD by the host; a PHASE code is put into PHASE with BUSY = 1; every other coded item into
the latch (log entry 3). -/
def placeCode (c : Code) (s : State) : State :=
  match c with
  | .cmd w => { s with host := .write 0 w :: s.host }
  | .phase c =>
    match phaseOfCode c with
    | some p => { s with host := [], latch := none, fault := false, busy := true, phase := p }
    | none => { s with host := [], latch := some (.phase c), fault := false }
  | c => { s with host := [], latch := some c, fault := false }

end Sys2Proof.Machine
end

