-- ==== Sys2Proof/Machine/Step.lean ====
section
/-! DEFINITION. One step of the machine, and where a step takes its next instruction from. -/

namespace Sys2Proof.Machine

/-- One step (00_scope.md R19: next state, fault, or blocked on a pull, which changes nothing). -/
def step (s : State) : Host.Outcome State Fault Refusal := stepOnce s

/-- `s` with a word of the opcode table's numbering where `step` takes its next instruction from. -/
def State.withFetchWord (s : State) (nbits w : Nat) : State := placeCode (tableCode nbits w) s

end Sys2Proof.Machine
end

