-- ==== Sys2Proof/Safety.lean ====
section
/-! DEFINITION. The terms the statements use: the invariants of the state, and the rules' own functional
descriptions (rotation order, spot positions, RLE1 expansion, symbol sequences, the inverse walk), written
apart from the operations that implement them. -/

namespace Sys2Proof.Machine

/-! ## Invariants -/

/-- Every array is in its canonical form (log entry 5). -/
def arraysOk (s : State) : Prop :=
  Memory.wf s.block = true ∧ arrWf s.zptr = true ∧ Memory.wf s.ll = true ∧
    arrWf s.nextIdx = true ∧ arrWf s.ftab = true ∧ arrWf s.cc = true

/-- "At most one of BUSY, DONE, FAULT is 1 at any time" (R22). -/
def flagsExclusive (s : State) : Prop :=
  ¬ (s.busy = true ∧ s.done = true) ∧ ¬ (s.busy = true ∧ s.fault = true) ∧
    ¬ (s.done = true ∧ s.fault = true)

/-- The mode a phase belongs to, by the third column of R23's table. -/
def phaseMode (p : Phase) : Mode :=
  match p with
  | .idle => .none
  | .headerC => .compress
  | .loadRle => .compress
  | .spot => .compress
  | .sort => .compress
  | .encode => .compress
  | .trailerC => .compress
  | .headerD => .decompress
  | .decode => .decompress
  | .invertSort => .decompress
  | .unspot => .decompress
  | .unrle => .decompress
  | .trailerD => .decompress

/-- A busy core is in a phase of its MODE; one that is neither busy nor faulted is in IDLE (R23, R291). -/
def sequencerOk (s : State) : Prop :=
  (s.busy = true → s.phase ≠ .idle ∧ s.mode = phaseMode s.phase) ∧
    (s.busy = false → s.fault = true ∨ s.phase = .idle)

/-- YY "is always a permutation of 0..255" (R37). -/
def listOk (s : State) : Prop := s.yy.Perm initialList

/-- The registers of model `m`. -/
def modelAt (s : State) (m : ModelId) : FreqModel :=
  s.models.getD m.val { totFreq := 0#32, freq := [] }

/-- R146 for one model: (a) the total is the sum, (b) no frequency is 0, (c) the total is at most
`noExceed`, (d) BOGUS stays at 1 everywhere. -/
def modelOk (p : Params) (m : ModelId) (fm : FreqModel) : Prop :=
  fm.freq.length = numSymbols m ∧ (∀ f ∈ fm.freq, 1 ≤ f.toNat) ∧
    fm.totFreq.toNat = (fm.freq.map BitVec.toNat).sum ∧ fm.totFreq.toNat ≤ limitOf p m ∧
    (m = bogusModel → ∀ f ∈ fm.freq, f = 1#32)

/-- All nine models meet R146, with parameters that meet R10 and R11. -/
def modelsOk (s : State) : Prop :=
  paramsLegal s.par = true ∧ s.models.length = 9 ∧ ∀ m, modelOk s.par m (modelAt s m)

/-- `QUARTER < R <= HALF` (R157 (a), R167). -/
def rangeOk (s : State) : Prop := quarter < s.r ∧ s.r ≤ half

/-- R157 and room for `items` more symbols below BO_LIMIT: a symbol adds at most 25 to BO. -/
def encoderOk (items : Nat) (s : State) : Prop :=
  rangeOk s ∧ s.l.toNat + s.r.toNat ≤ 2 ^ 26 ∧ s.bo.toNat + 25 * items ≤ boLimit.toNat

/-- A run was given the stream in front of its input port (R297): the core of a busy state took it when it
accepted the command (log entry 27). -/
def streamsGiven (s : State) : Prop :=
  (s.busy = true → s.mode = .compress → s.byteInGiven = true) ∧
    (s.busy = true → s.mode = .decompress → s.bitInGiven = true)

/-- `1 <= LEVEL <= MAX_LEVEL`, which HEADER_C and HEADER_D judge (R26, R349). -/
def levelFits (s : State) : Prop := 1 ≤ s.level.toNat ∧ s.level.toNat ≤ s.par.maxLevel

/-- A block is there, `1 <= N <= CAP` (R28, R202, R261). -/
def blockFits (s : State) : Prop := levelFits s ∧ 1 ≤ s.n.toNat ∧ s.n.toNat ≤ capOf s

/-- What the array indices rest on in the phase a busy core is in (R62). -/
def phaseBounds (s : State) : Prop :=
  match s.phase with
  | .idle => True
  | .headerC => 1 ≤ s.level.toNat
  | .loadRle => levelFits s
  | .spot => blockFits s
  | .sort => blockFits s
  | .encode => blockFits s
  | .trailerC => levelFits s
  | .headerD => True
  | .decode => levelFits s
  | .invertSort => blockFits s
  | .unspot => blockFits s
  | .unrle => blockFits s
  | .trailerD => levelFits s

/-- What every array index rests on (R62): `N <= CAPMAX`, the bounds of the phase, and nothing left over on
QSTACK or in the model's latch. -/
def indexesOk (s : State) : Prop :=
  s.n.toNat ≤ capMax s.par ∧ (s.busy = true → phaseBounds s) ∧ s.qstack = [] ∧ s.latch = none

/-- A legal state: parameters that meet R10 and R11, and the invariants of arrays, list, models, coder range
and indices. -/
def legalState (s : State) : Prop :=
  arraysOk s ∧ listOk s ∧ modelsOk s ∧ (s.fault = false → rangeOk s) ∧ indexesOk s

/-! ## Bits and the coder's interval -/

/-- A list of bits as a binary number, the first the most significant. -/
def bitsValue (bits : List Bool) : Nat := bits.foldl (fun n b => 2 * n + b.toNat) 0

/-- The lower end of the encoder's interval as one number: the bits pushed, the BO pending bits and L
(R31, R158, R159).  Deciding a bit or postponing it only doubles this number. -/
def lowEnd (s : State) : Nat :=
  bitsValue s.bitOut * 2 ^ (smallB + s.bo.toNat) + half.toNat * (2 ^ s.bo.toNat - 1) + s.l.toNat

/-- `step = R / T` (R156 step 2, R166 step 1). -/
def stepOf (s : State) (fm : FreqModel) : Nat := s.r.toNat / fm.totFreq.toNat

/-- `lowCum` in the natural numbers (R147). -/
def lowCumNat (fm : FreqModel) (sym : Nat) : Nat := ((fm.freq.take sym).map BitVec.toNat).sum

/-- `freq[s]` in the natural numbers. -/
def freqNat (fm : FreqModel) (sym : Nat) : Nat := (fm.freq.map BitVec.toNat).getD sym 0

/-- The range of symbol `sym` before renormalisation (R156 step 2, R166 step 3). -/
def narrowedRange (s : State) (fm : FreqModel) (sym : Nat) : Nat :=
  if lowCumNat fm sym + freqNat fm sym < fm.totFreq.toNat then stepOf s fm * freqNat fm sym
  else s.r.toNat - stepOf s fm * lowCumNat fm sym

/-- `target = min(T - 1, D / step)` (R166 step 1). -/
def targetOf (s : State) (fm : FreqModel) : Nat :=
  min (fm.totFreq.toNat - 1) (s.d.toNat / stepOf s fm)

/-! ## Symbol sequences (R97) -/

/-- A coder symbol: the model that codes it and its number. -/
abbrev Item := ModelId × Nat

/-- A symbol of its model. -/
def itemOk (item : Item) : Prop := item.2 < numSymbols item.1

/-- `ac.encode` for every symbol in order. -/
def encodeItems : List Item → Seq Unit
  | [] => pure ()
  | (m, sym) :: rest => do
    encodeOp m sym
    encodeItems rest

/-- `ac.decode` for every model in order: the symbols returned. -/
def decodeItems : List ModelId → Seq (List Nat)
  | [] => pure []
  | m :: rest => do
    let sym ← decodeOp m
    let syms ← decodeItems rest
    pure (sym :: syms)

/-- The four BOGUS symbols of a 32-bit field, most significant byte first (R103). -/
def wordItems (w : Word) : List Item :=
  [(bogusModel, w.toNat / 2 ^ 24), (bogusModel, w.toNat / 2 ^ 16 % 256),
    (bogusModel, w.toNat / 2 ^ 8 % 256), (bogusModel, w.toNat % 256)]

/-- The run string of `k` (R102): "the binary representation of `k+1` with its leading 1 removed, least
significant bit first, a 1 bit sent as RUNA and a 0 bit sent as RUNB". -/
def runString (k : Nat) : List RunDigit :=
  (List.range (Nat.log2 (k + 1))).map fun i => if (k + 1).testBit i then .runa else .runb

/-- The weight of a run digit (R102): 2 for RUNA, 1 for RUNB. -/
def digitWeight (d : RunDigit) : Nat :=
  match d with
  | .runa => 2
  | .runb => 1

/-- `sum over i of d_i * 2^i` (R102). -/
def runValue : List RunDigit → Nat
  | [] => 0
  | d :: rest => digitWeight d + 2 * runValue rest

/-- The BASIS symbols of a run (R100, R102). -/
def runItems (k : Nat) : List Item := (runString k).map fun d => (basisModel, digitSymbol d)

/-- The symbols of a value `1 <= v <= 255` (R101). -/
def valueItems (v : Nat) : List Item :=
  if v = 1 then [(basisModel, symOne)]
  else [(basisModel, 2 + Nat.log2 v), (Fin.ofNat 9 (Nat.log2 v), v - 2 ^ Nat.log2 v)]

/-- The symbols of a sequence of ranks after `zp` pending zeroes, closed by EOB (R197). -/
def rankItems : Nat → List Nat → List Item
  | zp, [] => runItems zp ++ [(basisModel, symEob)]
  | zp, 0 :: rest => rankItems (zp + 1) rest
  | zp, j :: rest => runItems zp ++ valueItems j ++ rankItems 0 rest

/-- Move-to-front of a list of bytes (R190): their ranks. -/
def ranksOf : List Byte → List Byte → List Nat
  | _, [] => []
  | yy, b :: rest => yy.idxOf b :: ranksOf (b :: yy.erase b) rest

/-- The list after a list of bytes was recoded (R190). -/
def listAfter (yy column : List Byte) : List Byte :=
  column.foldl (fun yy b => b :: yy.erase b) yy

/-- The symbols of one block: the `origPtr` word, then the column from the identity list (R197). -/
def blockItems (w : Word) (column : List Byte) : List Item :=
  wordItems w ++ rankItems 0 (ranksOf initialList column)

/-- The symbol sequences a block can be coded by, after its `origPtr` word (R97, R198): run digits, ONE,
and class symbols each with its offset, then EOB. -/
def blockString : List Item → Bool
  | [] => false
  | (m, sym) :: rest =>
    if m ≠ basisModel then false
    else if sym = symEob then rest.isEmpty
    else if sym ≤ symOne then blockString rest
    else
      match rest with
      | [] => false
      | (c, off) :: rest' =>
        decide (sym < symEob) && decide (c.val + 2 = sym) && decide (off < 2 ^ c.val) &&
          blockString rest'

/-- The last column `ll(0) ... ll(N-1)` (R196). -/
def lastColumnOf (s : State) : List Byte :=
  (List.range s.n.toNat).map fun k =>
    arrGet (w := 8) s.block (((arrGet s.zptr k).toNat + s.n.toNat - 1) % s.n.toNat)

/-! ## Blocks -/

/-- `BLOCK[0..N)`. -/
def blockBytes (s : State) : List Byte :=
  (List.range s.n.toNat).map fun i => arrGet (w := 8) s.block i

/-- `BLOCK[(a + k) mod N]`: byte `k` of `rot(a)` (R221). -/
def rotByte (s : State) (a k : Nat) : Byte := arrGet (w := 8) s.block ((a + k) % s.n.toNat)

/-- `a << b` (R221): `rot(a)` is lexicographically less than `rot(b)`, or equal and `a < b`. -/
def rotLess (s : State) (a b : Nat) : Prop :=
  (∃ k, k < s.n.toNat ∧ (∀ j, j < k → rotByte s a j = rotByte s b j) ∧
      rotByte s a k < rotByte s b k) ∨
    ((∀ k, k < s.n.toNat → rotByte s a k = rotByte s b k) ∧ a < b)

/-- `ZPTR[k]`. -/
def zptrAt (s : State) (k : Nat) : Nat := (arrGet s.zptr k).toNat

/-- `ZPTR[lo..hi)` ascends under `<<`. -/
def ascends (s : State) (lo hi : Nat) : Prop :=
  ∀ j k, lo ≤ j → j < k → k < hi → rotLess s (zptrAt s j) (zptrAt s k)

/-- The elements `ZPTR[lo..hi)`. -/
def zptrSlice (s : State) (lo hi : Nat) : List Nat :=
  (List.range (hi - lo)).map fun k => zptrAt s (lo + k)

/-- The contract of the sort (R221): a permutation of `[0, N)` in rotation order. -/
def sortedBlock (s : State) : Prop :=
  (zptrSlice s 0 s.n.toNat).Perm (List.range s.n.toNat) ∧ ascends s 0 s.n.toNat

/-- The padding of the bucket path (R38, R224). -/
def padded (s : State) : Prop :=
  ∀ t, t < wrapPad →
    arrGet (w := 8) s.block (s.n.toNat + t) = arrGet (w := 8) s.block (t % s.n.toNat)

/-- Every start position of `ZPTR[lo..hi)` is below N. -/
def startsBelow (s : State) (lo hi : Nat) : Prop :=
  ∀ k, lo ≤ k → k < hi → zptrAt s k < s.n.toNat

/-- The leading pair of rotation `i` (R228). -/
def leadingPair (s : State) (i : Nat) : Nat :=
  256 * (rotByte s i 0).toNat + (rotByte s i 1).toNat

/-- How many rotations have a leading pair below `j`: the start of bucket `j` (R43, R228). -/
def bucketStart (s : State) (j : Nat) : Nat :=
  ((List.range s.n.toNat).filter fun i => leadingPair s i < j).length

/-- What UNRLE pushes for the bytes of a block, after `cnt` equal bytes `prev`, and whether every count
byte was there (R267, R269). -/
def expandUnits : Nat → Byte → List Byte → List Byte × Bool
  | _, _, [] => ([], true)
  | cnt, prev, b :: rest =>
    if (if 0 < cnt ∧ b = prev then cnt + 1 else 1) = 4 then
      match rest with
      | [] => ([b], false)
      | k :: rest' =>
        let tail := expandUnits 0 b rest'
        (b :: (List.replicate k.toNat b ++ tail.1), tail.2)
    else
      let tail := expandUnits (if 0 < cnt ∧ b = prev then cnt + 1 else 1) b rest
      (b :: tail.1, tail.2)

/-- The bytes of a block that carry units: all but the sentinel of a final block (R106, R267). -/
def unitBytesOf (s : State) : List Byte :=
  if s.finalBlock then (blockBytes s).dropLast else blockBytes s

/-- The input the loader has before it: the lookahead byte, then the port (R33). -/
def pendingInput (s : State) : List Byte :=
  (if s.laValid then [s.laByte] else []) ++ s.byteIn

/-- The position number `q` of R277: "Position number `10q + r` (counting from 0) is
`8000 + 79915 q + (sum of the first r steps)`". -/
def spotPos (q : Nat) : Nat :=
  8000 + 79915 * (q / 10) +
    (([7915, 7983, 8017, 7932, 8000, 8068, 8034, 7966, 8051, 7949].take (q % 10)).sum)

/-! ## The inverse transform -/

/-- `LL[i]`. -/
def llAt (s : State) (i : Nat) : Byte := arrGet (w := 8) s.ll i

/-- "the count of `LL[i]` among `LL[0..i)`" (R42). -/
def occBefore (s : State) (i : Nat) : Nat :=
  ((List.range i).filter fun j => llAt s j = llAt s i).length

/-- How many bytes of `LL[0..N)` are below `b`: the exclusive prefix sum of the counts (R44). -/
def countBelow (s : State) (b : Nat) : Nat :=
  ((List.range s.n.toNat).filter fun j => (llAt s j).toNat < b).length

/-- The walk index after `k` steps from ORIGPTR (R240). -/
def walkIndex (s : State) : Nat → Nat
  | 0 => s.origptr.toNat
  | k + 1 => occBefore s (walkIndex s k) + countBelow s (llAt s (walkIndex s k)).toNat

/-! ## What an instruction leaves, said once -/

/-- The fault entry of R352 with code `c`: the four writes, nothing else. -/
def faulted (c : Byte) (s : State) : State :=
  { s with err := c, fault := true, busy := false, done := false }

/-- `i` completes as the encoding of `items`, in order, with the coder and the models left in order: only
the coder's registers, BIT_OUT and the models change. -/
def sends (i : Instr) (items : List Item) (s : State) : Prop :=
  ∃ t, exec i s = .next t ∧ encodeItems items s = .ok () t ∧
    t = { s with l := t.l, r := t.r, bo := t.bo, bitOut := t.bitOut, models := t.models } ∧
    modelsOk t ∧ encoderOk 0 t

/-- `LL` of `t` is `LL` of `s` with `bytes` written from the running length on (R200); that the elements past
them keep their values is the model's choice (log entry 28). -/
def appendsLl (s t : State) (bytes : List Byte) : Prop :=
  ∀ i, llAt t i =
    if s.pos.toNat ≤ i ∧ i < s.pos.toNat + bytes.length then bytes.getD (i - s.pos.toNat) 0#8
    else llAt s i

/-- `BLOCK` of `t` is `BLOCK` of `s` with `bytes` written from the running length on (R262); that the elements
past them keep their values is the model's choice (log entry 28). -/
def appendsBlock (s t : State) (bytes : List Byte) : Prop :=
  ∀ i, arrGet (w := 8) t.block i =
    if s.pos.toNat ≤ i ∧ i < s.pos.toNat + bytes.length then bytes.getD (i - s.pos.toNat) 0#8
    else arrGet (w := 8) s.block i

/-- `absorb` for every digit in order (R201). -/
def absorbAll : List RunDigit → Seq Unit
  | [] => pure ()
  | d :: rest => do
    absorbOp d
    absorbAll rest

/-- Blocks loaded from the input and unloaded at once, until one is final (R272 (a)): the state after the
final block, if it is reached within `fuel` blocks. -/
def throughBlocks : Nat → State → Option State
  | 0, _ => none
  | fuel + 1, s =>
    match exec .rle1Load s with
    | .next t =>
      match exec .rle1Unload t with
      | .next u => if u.finalBlock then some u else throughBlocks fuel u
      | .fault _ => none
      | .refused _ => none
    | .fault _ => none
    | .refused _ => none

/-! ## Tables of rows -/

/-- The rows of format BASIS with their symbol numbers (R100). -/
def basisRows : List (Instr × Nat) :=
  [(.basisRuna, 0), (.basisRunb, 1), (.basisOne, 2), (.basis2To3, 3), (.basis4To7, 4),
    (.basis8To15, 5), (.basis16To31, 6), (.basis32To63, 7), (.basis64To127, 8),
    (.basis128To255, 9), (.basisEob, 10)]

/-- The rows of format FAULT with the fault each takes (R341). -/
def faultRows : List (Instr × FaultCode × Byte) :=
  [(.faultBadMagic, .badMagic, 0x10#8), (.faultTruncated, .truncated, 0x11#8),
    (.faultBlockOverrun, .blockOverrun, 0x12#8), (.faultBadSentinel, .badSentinel, 0x13#8),
    (.faultCrcMismatch, .crcMismatch, 0x14#8), (.faultBadOrigptr, .badOrigptr, 0x15#8),
    (.faultBadRle1, .badRle1, 0x16#8), (.faultResource, .resource, 0x20#8),
    (.faultModelSymbolRange, .modelSymbolRange, 0x30#8), (.faultBitsRunaway, .bitsRunaway, 0x31#8),
    (.faultOrigptrNotFound, .origptrNotFound, 0x32#8), (.faultIllegalCmd, .illegalCmd, 0x40#8)]

/-- The transitions of R300's table, but those that end a run. -/
def phaseSuccessor (p : Phase) (finalBlock : Bool) : Option Phase :=
  match p with
  | .idle => none
  | .headerC => some .loadRle
  | .loadRle => some .spot
  | .spot => some .sort
  | .sort => some .encode
  | .encode => if finalBlock then some .trailerC else some .loadRle
  | .trailerC => none
  | .headerD => some .decode
  | .decode => some .invertSort
  | .invertSort => some .unspot
  | .unspot => some .unrle
  | .unrle => if finalBlock then some .trailerD else some .decode
  | .trailerD => none

end Sys2Proof.Machine
end

