-- ==== Sys2Proof/Certificates/Slice0/Obligations.lean ====
section
/-! DEFINITION. The statements for the provers. -/

section

open Sys2Proof Sys2Proof.Machine

/-! ## Encodings -/

/-- R90 to R107: the decoder undoes the encoder on every well-formed instruction that has a coded item,
with every operand at every value. -/
def Obligations.DecodeUndoesEncode : Prop :=
  ∀ (i : Instr) (c : Code), i.wellFormed = true → encode i = some c → decode c = .ok i

/-- R90 to R107: every coded item that the decoder accepts is the encoding of what it decodes to, and that
is well formed: no item has two readings and none is accepted by accident. -/
def Obligations.EncodeUndoesDecode : Prop :=
  ∀ (c : Code) (i : Instr), decode c = .ok i → encode i = some c ∧ i.wellFormed = true

/-- R91, R92, R96: the legal command words and the nine magic words, what each decodes to, and that every
other word is rejected. -/
def Obligations.LegalWords : Prop :=
  ∀ w : Word,
    (w.toNat = 0 → decode (.cmd w) = .ok .nop) ∧
    (w.toNat = 2 → decode (.cmd w) = .ok .decompress) ∧
    (w.toNat = 15 → decode (.cmd w) = .ok .abort) ∧
    (w.toNat % 256 = 1 → 1 ≤ w.toNat / 256 → w.toNat / 256 ≤ 9 →
      decode (.cmd w) = .ok (.compress (BitVec.ofNat 4 (w.toNat / 256)))) ∧
    (¬ (w.toNat = 0 ∨ w.toNat = 2 ∨ w.toNat = 15 ∨
        (w.toNat % 256 = 1 ∧ 1 ≤ w.toNat / 256 ∧ w.toNat / 256 ≤ 9)) →
      ∃ e, decode (.cmd w) = .error e) ∧
    (0x425A3031 ≤ w.toNat ∧ w.toNat ≤ 0x425A3039 →
      decode (.magic w) = .ok (.streamMagic (BitVec.ofNat 4 (w.toNat - 0x425A3030)))) ∧
    (¬ (0x425A3031 ≤ w.toNat ∧ w.toNat ≤ 0x425A3039) →
      decode (.magic w) = .error .notMagic)

/-- A few words of the opcode table, each with the row it stands for (R91, R23, R341, R96, R105, R106).  Which
place's table reads a number of a given width (an 8-bit number as a PHASE code, as the sentinel or as a fault
code, a 32-bit one as the magic before a command word) is the model's choice (log entry 16). -/
def Obligations.TableWordsDecode : Prop :=
  decodeTableWord 32 0x00000000 = some .nop ∧
    decodeTableWord 32 0x00000901 = some (.compress 9#4) ∧
    decodeTableWord 32 0x00000002 = some .decompress ∧
    decodeTableWord 32 0x0000000F = some .abort ∧
    decodeTableWord 8 0x0C = some .phaseUnrle ∧
    decodeTableWord 8 0x31 = some .faultBitsRunaway ∧
    decodeTableWord 32 0x425A3031 = some (.streamMagic 1#4) ∧
    decodeTableWord 8 0x2A = some .rle1Sentinel ∧
    decode (.basis 0b1010#4) = .ok .basisEob ∧
    decode (.unit [0x61#8, 0x61#8, 0x61#8, 0x61#8, 0x08#8]) = .ok (.rle1Long 0x61#8 0x08#8) ∧
    decode (.phase 7#4) = .error .phaseUnused ∧
    decode (.cmd 0x00000A01#32) = .error .cmdLevelRange

/-! ## Steps -/

/-- R290, R291, R300: a step performs the instruction its coded item decodes to: the command word a host
writes to CMD; or, with no host act pending, the latched item (the model's own, log entry 3), else the
phase PHASE names while BUSY = 1, else IDLE. -/
def Obligations.StepPerformsTheDecodedInstruction : Prop :=
  ∀ (s : State) (i : Instr),
    (∀ w rest, s.host = .write 0 w :: rest → decode (.cmd w) = .ok i →
      step s = exec i { s with host := rest }) ∧
    (∀ c, s.host = [] → s.fault = false → s.latch = some c → decode c = .ok i →
      step s = exec i { s with latch := none }) ∧
    (s.host = [] → s.fault = false → s.latch = none → s.busy = true →
      decode (.phase (phaseCode s.phase)) = .ok i → step s = exec i s) ∧
    (s.host = [] → s.fault = false → s.latch = none → s.busy = false → step s = exec .phaseIdle s)

/-- R290, R292, R293, R296, R92: what a word written to CMD does.  While BUSY = 1 or FAULT = 1 every word but
ABORT is dropped, legal or not.  Else COMPRESS and DECOMPRESS make the writes of their rules and get a stream
of their own (R297, log entry 27), NOP does nothing and an illegal word takes ILLEGAL_CMD.  The last clause,
a level that no legal word holds, is the model's choice (log entry 17). -/
def Obligations.CommandAcceptance : Prop :=
  ∀ (s : State) (lvl : BitVec 4),
    (s.busy = true ∨ s.fault = true →
      exec .nop s = .next s ∧ exec (.compress lvl) s = .next s ∧ exec .decompress s = .next s) ∧
    (s.busy = false ∧ s.fault = false →
      exec .nop s = .next s ∧
      (1 ≤ lvl.toNat ∧ lvl.toNat ≤ 9 →
        exec (.compress lvl) s =
          .next { s with
            level := lvl, mode := .compress, finalBlock := false, done := false, busy := true
            phase := .headerC
            byteIn := if s.byteInGiven then (s.byteInLater.headD ([], false)).1 else s.byteIn
            byteInEod := if s.byteInGiven then (s.byteInLater.headD ([], false)).2 else s.byteInEod
            byteInLater := if s.byteInGiven then s.byteInLater.tail else s.byteInLater
            byteInGiven := true }) ∧
      exec .decompress s =
        .next { s with
          level := 0#4, mode := .decompress, finalBlock := false, done := false, busy := true
          phase := .headerD
          bitIn := if s.bitInGiven then (s.bitInLater.headD ([], false)).1 else s.bitIn
          bitInEod := if s.bitInGiven then (s.bitInLater.headD ([], false)).2 else s.bitInEod
          bitInLater := if s.bitInGiven then s.bitInLater.tail else s.bitInLater
          bitInGiven := true } ∧
      (¬ (1 ≤ lvl.toNat ∧ lvl.toNat ≤ 9) →
        exec (.compress lvl) s = .next (faulted 0x40#8 s))) ∧
    (∀ (w : Word) (rest : List HostEvent) (e : Reject),
      s.host = .write 0 w :: rest → decode (.cmd w) = .error e →
        (s.busy = false ∧ s.fault = false →
          step s = .next (faulted 0x40#8 { s with host := rest })) ∧
        (s.busy = true ∨ s.fault = true → step s = .next { s with host := rest }))

/-- R297, R93, R68 (log entry 27): each run reads a stream of its own.  When an earlier run was given the
stream in front, or none is there, the items fed for the next run, written before its command or after it,
are exactly what that run finds; what the earlier run left unread, and its EOD, are gone.  FEED joins the
stream in front only while no EOD stands there and no ended run has it; a step of the sequencer takes items
from the front of that stream alone; and a busy core always has a stream of its own. -/
def Obligations.OneRunOneStream : Prop :=
  ∀ (s : State) (rest : List HostEvent),
    (s.busy = false → s.fault = false →
      (∀ w lvl bytes eod, decode (.cmd w) = .ok (.compress lvl) → s.byteInLater = [] →
        (s.byteInGiven = true ∨ s.byteIn = [] ∧ s.byteInEod = false) →
        (s.host = .write 0 w :: .feedBytes bytes eod :: rest ∨
          s.host = .feedBytes bytes eod :: .write 0 w :: rest) →
        ∃ t u, step s = .next t ∧ step t = .next u ∧ u.busy = true ∧ u.mode = .compress ∧
          u.byteIn = bytes ∧ u.byteInEod = eod ∧ u.byteInLater = [] ∧ u.host = rest) ∧
      (∀ w bits eod, decode (.cmd w) = .ok .decompress → s.bitInLater = [] →
        (s.bitInGiven = true ∨ s.bitIn = [] ∧ s.bitInEod = false) →
        (s.host = .write 0 w :: .feedBits bits eod :: rest ∨
          s.host = .feedBits bits eod :: .write 0 w :: rest) →
        ∃ t u, step s = .next t ∧ step t = .next u ∧ u.busy = true ∧ u.mode = .decompress ∧
          u.bitIn = bits ∧ u.bitInEod = eod ∧ u.bitInLater = [] ∧ u.host = rest)) ∧
    (∀ bytes eod, s.host = .feedBytes bytes eod :: rest →
      ∃ t, step s = .next t ∧
        t = { s with
          host := rest, byteIn := t.byteIn, byteInEod := t.byteInEod, byteInLater := t.byteInLater } ∧
        (if s.byteInEod = false ∧ (s.byteInGiven = false ∨ s.busy = true ∧ s.mode = .compress) then
          t.byteIn = s.byteIn ++ bytes ∧ t.byteInEod = eod ∧ t.byteInLater = s.byteInLater
        else t.byteIn = s.byteIn ∧ t.byteInEod = s.byteInEod ∧
          (t.byteInLater.map Prod.fst).flatten = (s.byteInLater.map Prod.fst).flatten ++ bytes)) ∧
    (∀ bits eod, s.host = .feedBits bits eod :: rest →
      ∃ t, step s = .next t ∧
        t = { s with
          host := rest, bitIn := t.bitIn, bitInEod := t.bitInEod, bitInLater := t.bitInLater } ∧
        (if s.bitInEod = false ∧ (s.bitInGiven = false ∨ s.busy = true ∧ s.mode = .decompress) then
          t.bitIn = s.bitIn ++ bits ∧ t.bitInEod = eod ∧ t.bitInLater = s.bitInLater
        else t.bitIn = s.bitIn ∧ t.bitInEod = s.bitInEod ∧
          (t.bitInLater.map Prod.fst).flatten = (s.bitInLater.map Prod.fst).flatten ++ bits)) ∧
    (∀ t, s.host = [] → s.latch = none → step s = .next t →
      t.byteIn <:+ s.byteIn ∧ t.byteInEod = s.byteInEod ∧ t.byteInLater = s.byteInLater ∧
      t.bitIn <:+ s.bitIn ∧ t.bitInEod = s.bitInEod ∧ t.bitInLater = s.bitInLater) ∧
    (∀ t, streamsGiven s → step s = .next t → streamsGiven t)

/-- R291, R352: IDLE performs nothing, and after a fault the sequencer is inert. -/
def Obligations.InertSequencer : Prop :=
  ∀ s : State,
    exec .phaseIdle s = .next s ∧
    (s.host = [] → s.fault = true → step s = .next s) ∧
    (s.host = [] → s.busy = false → s.latch = none → step s = .next s)

/-- R21: what a host read returns; it changes nothing of the core.  With BUSY = 1 a read of CRC, N or
ORIGPTR returns a free value, of which nothing is stated.  R22 to R24: the fields of STATUS as it is read. -/
def Obligations.HostReads : Prop :=
  ∀ s : State,
    (∀ (k : Nat) (rest : List HostEvent), s.host = .read k :: rest →
      ∃ t, step s = .next t ∧
        t = { s with host := rest, hostData := t.hostData, freeCount := t.freeCount } ∧
        (k = 0 ∨ 7 ≤ k → t.hostData = 0#32) ∧
        (k = 1 → t.hostData = statusWord s) ∧
        (k = 2 → t.hostData.toNat = s.err.toNat) ∧
        (k = 3 → t.hostData.toNat = s.level.toNat) ∧
        (s.busy = false →
          (k = 4 → t.hostData = s.crc) ∧ (k = 5 → t.hostData = s.n) ∧
          (k = 6 → t.hostData = s.origptr))) ∧
    (statusWord s).getLsbD 0 = s.busy ∧ (statusWord s).getLsbD 1 = s.done ∧
    (statusWord s).getLsbD 2 = s.fault ∧ (statusWord s).getLsbD 3 = s.finalBlock ∧
    ((statusWord s).extractLsb' 4 2).toNat =
      (match s.mode with | .none => 0 | .compress => 1 | .decompress => 2) ∧
    (statusWord s).extractLsb' 6 2 = 0#2 ∧
    decode (.phase ((statusWord s).extractLsb' 8 4)) =
      .ok (match s.phase with
        | .idle => .phaseIdle | .headerC => .phaseHeaderC | .loadRle => .phaseLoadRle
        | .spot => .phaseSpot | .sort => .phaseSort | .encode => .phaseEncode
        | .trailerC => .phaseTrailerC | .headerD => .phaseHeaderD | .decode => .phaseDecode
        | .invertSort => .phaseInvertSort | .unspot => .phaseUnspot | .unrle => .phaseUnrle
        | .trailerD => .phaseTrailerD) ∧
    (statusWord s).extractLsb' 12 20 = 0#20

/-- R62: "Every array index a rule forms is in range for any input, by the rules' own checks".  From every
legal state, whatever the ports hold and the host does, a step answers a next state, and that state is legal:
it keeps `N <= CAPMAX` with the other invariants, and ends in no out-of-range index, in no other fault of the
model (log entry 9) and in no refusal.  After an ABORT, an ABORT within a step and a reset, R50 and R294 leave
YY, the models, R and the arrays unspecified: that the state is legal then is the model's choice (log entries
4 and 5). -/
def Obligations.LegalStatesNeverStop : Prop :=
  ∀ s : State, legalState s → ∃ t, step s = .next t ∧ legalState t

/-- R294, R380, R50: ABORT completes in every state, and the reset input does the same: every register with
a reset value takes it.  After ABORT the ports keep what they hold (R294); that the reset input leaves them
so too is the model's choice, which R380 leaves to the platform (log entry 21), and so is what tells the
streams of the input ports apart (log entry 27). -/
def Obligations.AbortResets : Prop :=
  ∀ s : State,
    (∃ t, exec .abort s = .next t ∧
      statusWord t = 0#32 ∧ t.err = 0#8 ∧ t.level = 0#4 ∧ t.crc = 0#32 ∧ t.n = 0#32 ∧
      t.origptr = 0#32 ∧
      t.byteIn = s.byteIn ∧ t.byteInEod = s.byteInEod ∧ t.bitIn = s.bitIn ∧
      t.bitInEod = s.bitInEod ∧ t.bitOut = s.bitOut ∧ t.byteOut = s.byteOut ∧
      t.byteInLater = s.byteInLater ∧ t.bitInLater = s.bitInLater ∧
      t.byteInGiven = s.byteInGiven ∧ t.bitInGiven = s.bitInGiven ∧
      t.host = s.host ∧ t.par = s.par) ∧
    (∀ rest, s.host = .reset :: rest ∨ s.host = .write 0 0x0000000F#32 :: rest →
      step s = exec .abort { s with host := rest })

/-- R294: an ABORT that takes effect while a step is performed leaves a prefix of what the step pushes, takes
from the input ports at most a prefix, and resets the core. -/
def Obligations.AbortLeavesAPrefix : Prop :=
  ∀ (s t : State) (k : Nat) (rest : List HostEvent), s.host = .abortAfter k :: rest →
    step { s with host := [] } = .next t →
      ∃ u, step s = .next u ∧ statusWord u = 0#32 ∧ u.err = 0#8 ∧ u.level = 0#4 ∧ u.crc = 0#32 ∧
        u.n = 0#32 ∧ u.origptr = 0#32 ∧ u.host = rest ∧ u.par = s.par ∧
        s.bitOut <+: u.bitOut ∧ u.bitOut <+: t.bitOut ∧
        u.bitOut.length ≤ s.bitOut.length + k ∧
        s.byteOut <+: u.byteOut ∧ u.byteOut <+: t.byteOut ∧
        u.byteOut.length ≤ s.byteOut.length + k ∧
        u.byteIn <:+ s.byteIn ∧ s.byteIn.length ≤ u.byteIn.length + k ∧
        u.bitIn <:+ s.bitIn ∧ s.bitIn.length ≤ u.bitIn.length + k

/-- R22, R25, R352: once a fault is latched, FAULT and ERR keep their values through every step but an ABORT
and a reset. -/
def Obligations.OnlyAbortAndResetClearFault : Prop :=
  ∀ s t : State, s.fault = true → step s = .next t →
    (t.fault = true ∧ t.err = s.err) ∨
      ∃ rest, s.host = .reset :: rest ∨ (∃ k, s.host = .abortAfter k :: rest) ∨
        s.host = .write 0 0x0000000F#32 :: rest

/-! ## Invariants every step keeps -/

/-- R60, R61, R73: every step keeps every array in its canonical form.  The form, and that an ABORT and a reset
leave nothing listed, are the model's choice (log entry 5). -/
def Obligations.StepKeepsArraysCanonical : Prop :=
  ∀ s t : State, arraysOk s → step s = .next t → arraysOk t

/-- R22: "At most one of BUSY, DONE, FAULT is 1 at any time": every step keeps it so. -/
def Obligations.StepKeepsFlagsExclusive : Prop :=
  ∀ s t : State, flagsExclusive s → step s = .next t → flagsExclusive t

/-- R23, R24, R291, R300: every step keeps PHASE in the run's MODE, and in IDLE when the core is neither
busy nor faulted. -/
def Obligations.StepKeepsPhaseInMode : Prop :=
  ∀ s t : State, sequencerOk s → step s = .next t → sequencerOk t

/-- R37: every step keeps YY a permutation of 0..255.  After an ABORT, an ABORT within a step and a reset, R50
and R294 leave YY unspecified: that it is one then is the model's choice (log entry 4). -/
def Obligations.StepKeepsListPermutation : Prop :=
  ∀ s t : State, listOk s → step s = .next t → listOk t

/-- R146: every step keeps all nine models within their invariants.  After an ABORT, an ABORT within a step and
a reset, R50 and R294 leave the models unspecified: that they meet R146 then is the model's choice (log entry
4). -/
def Obligations.StepKeepsModels : Prop :=
  ∀ s t : State, modelsOk s → step s = .next t → modelsOk t

/-- R157 (a), R167: every step that does not fault leaves `QUARTER < R <= HALF`.  After an ABORT, an ABORT within
a step and a reset, R50 and R294 leave R unspecified: that it is 2^25 then is the model's choice (log entry
4). -/
def Obligations.StepKeepsCoderRange : Prop :=
  ∀ s t : State, modelsOk s → (s.fault = false → rangeOk s) → step s = .next t →
    t.fault = false → rangeOk t

/-- R65, R67, R68, R47: no step changes the built parameters or takes back what was pushed, an ABORT among them
("Items already pushed stay pushed", R294).  That the reset input leaves the output ports so too is the model's
choice, which R380 leaves to the platform (log entry 21). -/
def Obligations.StepKeepsParametersAndOutput : Prop :=
  ∀ s t : State, step s = .next t →
    t.par = s.par ∧ s.bitOut <+: t.bitOut ∧ s.byteOut <+: t.byteOut

/-- R50, R380: the state after reset has the reset values the spec gives, and meets every invariant.  The
values behind the invariants from `arraysOk` on are the model's choice (log entries 4, 5 and 27). -/
def Obligations.ResetMeetsEveryInvariant : Prop :=
  statusWord State.reset = 0#32 ∧ State.reset.err = 0#8 ∧ State.reset.level = 0#4 ∧
    State.reset.crc = 0#32 ∧ State.reset.n = 0#32 ∧ State.reset.origptr = 0#32 ∧
    flagsExclusive State.reset ∧ sequencerOk State.reset ∧
    arraysOk State.reset ∧ listOk State.reset ∧ modelsOk State.reset ∧ rangeOk State.reset ∧
    legalState State.reset ∧ streamsGiven State.reset

/-! ## Commands, faults, phases -/

/-- R295: NOP is the word 0x00000000 and changes no state. -/
def Obligations.NopChangesNothing : Prop :=
  decode (.cmd 0x00000000#32) = .ok .nop ∧ encode .nop = some (.cmd 0x00000000#32) ∧
    ∀ s : State, exec .nop s = .next s

/-- R341, R352: each of the twelve faults is taken by the one fault entry: ERR takes its code, FAULT is set,
BUSY and DONE are cleared, everything else keeps its value. -/
def Obligations.FaultsAreTaken : Prop :=
  ∀ (s : State) (i : Instr) (f : FaultCode) (c : Byte), (i, f, c) ∈ faultRows →
    exec i s = .next { s with err := c, fault := true, busy := false, done := false } ∧
    exec (.faultEntry f) s = .next { s with err := c, fault := true, busy := false, done := false }

/-- R300, R335: the phase transition and the end of a run. -/
def Obligations.PhaseTransitions : Prop :=
  ∀ s : State,
    (∀ q, phaseSuccessor s.phase s.finalBlock = some q →
      exec .phaseNext s = .next { s with phase := q }) ∧
    (s.phase = .idle → exec .phaseNext s = .next s) ∧
    (s.phase = .trailerC ∨ s.phase = .trailerD →
      exec .phaseNext s = .next { s with busy := false, done := true, phase := .idle }) ∧
    exec .runEnd s = .next { s with busy := false, done := true, phase := .idle }

/-- R301: HEADER_C initialises the stream's registers and pushes the magic, or raises RESOURCE first. -/
def Obligations.HeaderCPushesTheMagic : Prop :=
  ∀ s : State,
    (s.level.toNat ≤ s.par.maxLevel →
      exec .phaseHeaderC s =
        .next (nextPhase { s with
          crc := 0xFFFFFFFF#32, laValid := false, srcEod := false
          l := 0#32, r := 33554432#32, bo := 0#32
          bitOut := s.bitOut ++
            (List.range 32).map fun i => (0x425A3030 + s.level.toNat).testBit (31 - i) })) ∧
    (s.par.maxLevel < s.level.toNat → exec .phaseHeaderC s = .next (faulted 0x20#8 s))

/-- R310, R165, R357: HEADER_D pulls 32 bits, judges them, primes the decoder with 26 more; each way it can
fail; and that it waits when the source pauses among the 32 bits or among the 26.  That a waiting HEADER_D
leaves the bits it has seen in the port is the model's choice (log entry 1). -/
def Obligations.HeaderDReadsTheMagic : Prop :=
  ∀ (s : State) (w : Word),
    (∀ prime rest, s.bitIn = wordBits w ++ prime ++ rest →
      0x425A3031 ≤ w.toNat → w.toNat ≤ 0x425A3039 → w.toNat - 0x425A3030 ≤ s.par.maxLevel →
      (prime.length = 26 →
        exec .phaseHeaderD s =
          .next (nextPhase { s with
            bitIn := rest, level := BitVec.ofNat 4 (w.toNat - 0x425A3030), crc := 0xFFFFFFFF#32
            r := 33554432#32, d := BitVec.ofNat 32 (bitsValue prime) })) ∧
      (prime.length < 26 → rest = [] → s.bitInEod = true →
        exec .phaseHeaderD s =
          .next (faulted 0x11#8 { s with
            bitIn := [], level := BitVec.ofNat 4 (w.toNat - 0x425A3030), crc := 0xFFFFFFFF#32
            r := 33554432#32, d := BitVec.ofNat 32 (bitsValue prime) })) ∧
      (prime.length < 26 → rest = [] → s.bitInEod = false → exec .phaseHeaderD s = .next s)) ∧
    (∀ rest, s.bitIn = wordBits w ++ rest →
      (¬ (0x425A3031 ≤ w.toNat ∧ w.toNat ≤ 0x425A3039) →
        exec .phaseHeaderD s = .next (faulted 0x10#8 { s with bitIn := rest })) ∧
      (0x425A3031 ≤ w.toNat → w.toNat ≤ 0x425A3039 → s.par.maxLevel < w.toNat - 0x425A3030 →
        exec .phaseHeaderD s =
          .next (faulted 0x20#8 { s with
            bitIn := rest, level := BitVec.ofNat 4 (w.toNat - 0x425A3030) }))) ∧
    (s.bitIn.length < 32 →
      (s.bitInEod = true → exec .phaseHeaderD s = .next (faulted 0x11#8 { s with bitIn := [] })) ∧
      (s.bitInEod = false → exec .phaseHeaderD s = .next s))

/-! ## RLE1 and the spots -/

/-- R260 to R264, R302: LOAD_RLE builds one block: its units stand for the input pulled, its length is
within the limits, a final block carries the sentinel and has all the input, and CRC covers every byte
pulled, once.  The input is there to its end, or more of it than any block can take.
That BLOCK beyond N keeps its values is the model's choice (log entry 28). -/
def Obligations.LoadBuildsTheBlock : Prop :=
  ∀ s : State, paramsLegal s.par = true → arraysOk s → 1 ≤ s.level.toNat →
    s.level.toNat ≤ s.par.maxLevel → s.srcEod = false →
    (s.byteInEod = true ∨ 51 * capOf s + 256 ≤ s.byteIn.length) →
    ∃ t x pulled, exec .rle1Load s = .next t ∧ exec .phaseLoadRle s = .next (nextPhase t) ∧
      t = { s with
        block := t.block, n := t.n, pos := t.n, finalBlock := t.finalBlock, srcEod := t.finalBlock
        laValid := t.laValid, laByte := t.laByte, byteIn := t.byteIn
        crc := crcOver s.crc pulled } ∧
      s.byteIn = pulled ++ t.byteIn ∧
      expandUnits 0 0#8 (unitBytesOf t) = (x, true) ∧ pendingInput s = x ++ pendingInput t ∧
      1 ≤ t.n.toNat ∧ t.n.toNat + 20 ≤ capOf s ∧
      (t.finalBlock = true →
        arrGet (w := 8) t.block (t.n.toNat - 1) = 42#8 ∧ t.laValid = false ∧ t.byteIn = []) ∧
      (t.finalBlock = false → capOf s ≤ t.n.toNat + 25 ∧ t.n.toNat + 21 ≤ capOf s) ∧
      (∀ i, t.n.toNat ≤ i → arrGet (w := 8) t.block i = arrGet (w := 8) s.block i)

/-- R267 to R271, R314: UNRLE pushes what the block's units stand for, counted in CRC; a wrong sentinel
faults before anything is pushed, a missing count after what stands before it. -/
def Obligations.UnloadExpandsTheBlock : Prop :=
  ∀ s : State, paramsLegal s.par = true → s.n.toNat ≤ capMax s.par →
    (s.finalBlock = true → 1 ≤ s.n.toNat) →
    (s.finalBlock = true → arrGet (w := 8) s.block (s.n.toNat - 1) ≠ 42#8 →
      exec .rle1Unload s = .next (faulted 0x13#8 s) ∧
      exec .phaseUnrle s = .next (faulted 0x13#8 s)) ∧
    ((s.finalBlock = true → arrGet (w := 8) s.block (s.n.toNat - 1) = 42#8) →
      ∀ x ok t, expandUnits 0 0#8 (unitBytesOf s) = (x, ok) →
        t = { s with byteOut := s.byteOut ++ x, crc := crcOver s.crc x } →
        (ok = true →
          exec .rle1Unload s = .next t ∧ exec .phaseUnrle s = .next (nextPhase t)) ∧
        (ok = false →
          exec .rle1Unload s = .next (faulted 0x16#8 t) ∧
          exec .phaseUnrle s = .next (faulted 0x16#8 t)))

/-- R272 (a): loading and unloading block after block, to the final one, pushes exactly the input. -/
def Obligations.LoadThenUnloadRestoresTheInput : Prop :=
  ∀ s : State, paramsLegal s.par = true → arraysOk s → 1 ≤ s.level.toNat →
    s.level.toNat ≤ s.par.maxLevel → s.srcEod = false → s.byteInEod = true →
    ∃ fuel t, throughBlocks fuel s = some t ∧ t.finalBlock = true ∧ t.byteIn = [] ∧
      t.byteOut = s.byteOut ++ pendingInput s

/-- R275 to R277, R303, R313: `spot.apply` changes the bytes at the positions below `N - 1` by one, modulo
256, and no other.  That BLOCK from N on keeps its values is the model's choice (log entry 28). -/
def Obligations.SpotVisitsItsPositions : Prop :=
  ∀ (s : State) (delta : SpotDelta), paramsLegal s.par = true → arraysOk s →
    s.n.toNat ≤ capMax s.par →
    ∃ t, exec (.spotApply delta) s = .next t ∧
      (delta = .plus → exec .phaseSpot s = .next (nextPhase t)) ∧
      (delta = .minus → exec .phaseUnspot s = .next (nextPhase t)) ∧
      t = { s with block := t.block, spos := t.spos, sidx := t.sidx } ∧
      (∀ q, spotPos q + 1 < s.n.toNat →
        arrGet (w := 8) t.block (spotPos q) =
          (match delta with
            | .plus => arrGet (w := 8) s.block (spotPos q) + 1#8
            | .minus => arrGet (w := 8) s.block (spotPos q) - 1#8)) ∧
      (∀ i, (∀ q, spotPos q + 1 < s.n.toNat → i ≠ spotPos q) →
        arrGet (w := 8) t.block i = arrGet (w := 8) s.block i) ∧
      (∃ q, t.spos.toNat = spotPos q ∧ t.sidx.toNat = q % 10 ∧ s.n.toNat ≤ spotPos q + 1 ∧
        ∀ p, p < q → spotPos p + 1 < s.n.toNat)

/-- R278: SPOT then UNSPOT restores the block exactly.  That BLOCK from N on is the same too is the model's
choice (log entry 28). -/
def Obligations.SpotSymmetry : Prop :=
  ∀ s t : State, paramsLegal s.par = true → arraysOk s → s.n.toNat ≤ capMax s.par →
    exec (.spotApply .plus) s = .next t →
    ∃ u, exec (.spotApply .minus) t = .next u ∧ u.block = s.block

/-! ## The sorter -/

/-- R226, R230: both comparators return true exactly when `b << a`. -/
def Obligations.ComparatorsDecideRotationOrder : Prop :=
  ∀ (s : State) (a b : Word), a.toNat < s.n.toNat → b.toNat < s.n.toNat →
    (s.n.toNat ≤ blockSize s →
      ∃ g : Bool, exec (.bwtTrivialGt a b) s =
          .next { s with result := [if g then 1#32 else 0#32] } ∧
        (g = true ↔ rotLess s b.toNat a.toNat)) ∧
    (s.n.toNat ≤ capMax s.par → padded s →
      ∃ g : Bool, exec (.bwtFullGt a b) s =
          .next { s with result := [if g then 1#32 else 0#32] } ∧
        (g = true ↔ rotLess s b.toNat a.toNat))

/-- R225, R221: `bwt.small_sort` meets the contract, and changes only ZPTR[0..N).  That ZPTR from N on
keeps its values is the model's choice (log entry 28). -/
def Obligations.SmallSortMeetsContract : Prop :=
  ∀ s : State, paramsLegal s.par = true → arraysOk s → s.n.toNat ≤ capMax s.par →
    ∃ t, exec .bwtSmallSort s = .next t ∧ t = { s with zptr := t.zptr } ∧ sortedBlock t ∧
      ∀ k, s.n.toNat ≤ k → zptrAt t k = zptrAt s k

/-- R228, R221, R43: `bwt.bucket_sort` meets the contract, leaves FTAB at the bucket starts and the padding
built, and changes nothing else.  That ZPTR from N on and BLOCK from N + 16 on keep their values is the model's
choice (log entry 28). -/
def Obligations.BucketSortMeetsContract : Prop :=
  ∀ s : State, paramsLegal s.par = true → arraysOk s → s.qstack = [] → 16 ≤ s.n.toNat →
    s.n.toNat ≤ capMax s.par →
    ∃ t, exec .bwtBucketSort s = .next t ∧
      t = { s with block := t.block, zptr := t.zptr, ftab := t.ftab } ∧ sortedBlock t ∧ padded t ∧
      (∀ i, i < s.n.toNat ∨ s.n.toNat + 16 ≤ i →
        arrGet (w := 8) t.block i = arrGet (w := 8) s.block i) ∧
      (∀ k, s.n.toNat ≤ k → zptrAt t k = zptrAt s k) ∧
      (∀ j, j ≤ 65536 → (arrGet t.ftab j).toNat = bucketStart s j)

/-- R220, R221, R304: SORT leaves ZPTR the sorted permutation and ORIGPTR the rank of rotation 0; the block
is not changed; a short block leaves padding and FTAB alone; an empty block raises ORIGPTR_NOT_FOUND.
That padding and FTAB then keep their values is the model's choice (log entry 28). -/
def Obligations.SortMeetsItsContract : Prop :=
  ∀ s : State, paramsLegal s.par = true → arraysOk s → s.qstack = [] → s.n.toNat ≤ capMax s.par →
    (1 ≤ s.n.toNat →
      ∃ t, exec .bwtSort s = .next t ∧ exec .phaseSort s = .next (nextPhase t) ∧
        t = { s with
          block := t.block, zptr := t.zptr, ftab := t.ftab, origptr := t.origptr } ∧
        sortedBlock t ∧ t.origptr.toNat < s.n.toNat ∧ zptrAt t t.origptr.toNat = 0 ∧
        blockBytes t = blockBytes s ∧
        (s.n.toNat ≤ 1024 → t.block = s.block ∧ t.ftab = s.ftab)) ∧
    (s.n.toNat = 0 →
      exec .bwtSort s = .next (faulted 0x32#8 s) ∧ exec .phaseSort s = .next (faulted 0x32#8 s))

/-- R224: `build_pad` copies the first sixteen circular bytes behind the block.  That BLOCK from N + 16 on
keeps its values is the model's choice (log entry 28). -/
def Obligations.BuildPadCopiesTheStart : Prop :=
  ∀ s : State, paramsLegal s.par = true → arraysOk s → 1 ≤ s.n.toNat →
    s.n.toNat ≤ capMax s.par →
    ∃ t, exec .bwtBuildPad s = .next t ∧ t = { s with block := t.block } ∧
      ∀ i, arrGet (w := 8) t.block i =
        if s.n.toNat ≤ i ∧ i < s.n.toNat + 16 then
          arrGet (w := 8) s.block ((i - s.n.toNat) % s.n.toNat)
        else arrGet (w := 8) s.block i

/-- R234: `insertion` sorts its range under `<<` and leaves every other element alone; for ZPTR from N on that
is the model's choice (log entry 28). -/
def Obligations.InsertionSortsARange : Prop :=
  ∀ (s : State) (lo hi : Word), paramsLegal s.par = true → arraysOk s → padded s →
    s.n.toNat ≤ capMax s.par → lo.toNat ≤ hi.toNat → hi.toNat < capMax s.par →
    startsBelow s lo.toNat (hi.toNat + 1) → (zptrSlice s lo.toNat (hi.toNat + 1)).Nodup →
    ∃ t, exec (.bwtInsertion lo hi) s = .next t ∧ t = { s with zptr := t.zptr } ∧
      ascends t lo.toNat (hi.toNat + 1) ∧
      (zptrSlice t lo.toNat (hi.toNat + 1)).Perm (zptrSlice s lo.toNat (hi.toNat + 1)) ∧
      ∀ k, k < lo.toNat ∨ hi.toNat < k → zptrAt t k = zptrAt s k

/-- R233: what `partition` returns and leaves: "On return `j < i`; no element of `ZPTR[lo..j]` sorts after
`p`, no element of `ZPTR[i..hi]` sorts before `p`", and what stands between is `p`.  That ZPTR
from N on keeps its values is the model's choice (log entry 28). -/
def Obligations.PartitionSplitsARange : Prop :=
  ∀ (s : State) (lo hi p : Word), paramsLegal s.par = true → arraysOk s → padded s →
    s.n.toNat ≤ capMax s.par → lo.toNat ≤ hi.toNat → hi.toNat < capMax s.par →
    startsBelow s lo.toNat (hi.toNat + 1) →
    p.toNat ∈ zptrSlice s lo.toNat (hi.toNat + 1) →
    ∃ (t : State) (i : Nat) (j : Int), exec (.bwtPartition lo hi p) s = .next t ∧
      t = { s with zptr := t.zptr, result := [BitVec.ofNat 32 i, BitVec.ofInt 32 j] } ∧
      j < (i : Int) ∧ (i : Int) ≤ j + 2 ∧ lo.toNat < i ∧ i ≤ hi.toNat + 1 ∧
      (lo.toNat : Int) - 1 ≤ j ∧ j < (hi.toNat : Int) ∧
      (∀ k : Nat, lo.toNat ≤ k → (k : Int) ≤ j → ¬ rotLess s p.toNat (zptrAt t k)) ∧
      (∀ k : Nat, i ≤ k → k ≤ hi.toNat → ¬ rotLess s (zptrAt t k) p.toNat) ∧
      (∀ k : Nat, j < (k : Int) → k < i → zptrAt t k = p.toNat) ∧
      (zptrSlice t lo.toNat (hi.toNat + 1)).Perm (zptrSlice s lo.toNat (hi.toNat + 1)) ∧
      ∀ k, k < lo.toNat ∨ hi.toNat < k → zptrAt t k = zptrAt s k

/-- R231: `bwt.qsort` sorts its range under `<<`, leaves every other element alone and its stack empty;
that ZPTR from N on keeps its values is the model's choice (log entry 28). -/
def Obligations.QsortSortsARange : Prop :=
  ∀ (s : State) (lo hi : Word), paramsLegal s.par = true → arraysOk s → padded s →
    s.qstack = [] → s.n.toNat ≤ capMax s.par → lo.toNat ≤ hi.toNat → hi.toNat < capMax s.par →
    startsBelow s lo.toNat (hi.toNat + 1) → (zptrSlice s lo.toNat (hi.toNat + 1)).Nodup →
    ∃ t, exec (.bwtQsort lo hi) s = .next t ∧ t = { s with zptr := t.zptr } ∧
      ascends t lo.toNat (hi.toNat + 1) ∧
      (zptrSlice t lo.toNat (hi.toNat + 1)).Perm (zptrSlice s lo.toNat (hi.toNat + 1)) ∧
      ∀ k, k < lo.toNat ∨ hi.toNat < k → zptrAt t k = zptrAt s k

/-- R232: `median3` returns the one of its three start positions that is neither the least nor the greatest
under `<<`, and changes nothing. -/
def Obligations.Median3ReturnsTheMiddle : Prop :=
  ∀ (s : State) (a b c : Word), padded s → s.n.toNat ≤ capMax s.par → a.toNat < s.n.toNat →
    b.toNat < s.n.toNat → c.toNat < s.n.toNat →
    ∃ x m y : Word, exec (.bwtMedian3 a b c) s = .next { s with result := [m] } ∧
      [x, m, y].Perm [a, b, c] ∧ ¬ rotLess s m.toNat x.toNat ∧ ¬ rotLess s y.toNat m.toNat

/-- R237: `bwt.find_origptr` sets ORIGPTR to the first `k` below N with `ZPTR[k] = 0`; with none it raises
ORIGPTR_NOT_FOUND. -/
def Obligations.FindOrigptrFindsRotationZero : Prop :=
  ∀ s : State, s.n.toNat ≤ capMax s.par →
    (∀ k, k < s.n.toNat → zptrAt s k = 0 → (∀ j, j < k → zptrAt s j ≠ 0) →
      exec .bwtFindOrigptr s = .next { s with origptr := BitVec.ofNat 32 k }) ∧
    ((∀ k, k < s.n.toNat → zptrAt s k ≠ 0) →
      exec .bwtFindOrigptr s = .next (faulted 0x32#8 s))

/-- R240, R241, R312, R42, R44: INVERT_SORT leaves NEXT, CC and BLOCK as the walk defines them; a start
index outside the block raises BAD_ORIGPTR before a byte is written.  That NEXT and BLOCK from N on keep their
values is the model's choice (log entry 28). -/
def Obligations.InverseWalksTheColumn : Prop :=
  ∀ s : State, paramsLegal s.par = true → arraysOk s → s.n.toNat ≤ capMax s.par →
    ∃ t, t = { s with block := t.block, nextIdx := t.nextIdx, cc := t.cc } ∧
      (∀ i, i < s.n.toNat → (arrGet t.nextIdx i).toNat = occBefore s i) ∧
      (∀ i, s.n.toNat ≤ i → arrGet t.nextIdx i = arrGet s.nextIdx i) ∧
      (∀ b, b < 256 → (arrGet t.cc b).toNat = countBelow s b) ∧
      (s.origptr.toNat < s.n.toNat ∨ s.n.toNat = 0 →
        exec .bwtInverse s = .next t ∧ exec .phaseInvertSort s = .next (nextPhase t) ∧
        (∀ k, k < s.n.toNat →
          arrGet (w := 8) t.block (s.n.toNat - 1 - k) = llAt s (walkIndex s k)) ∧
        (∀ i, s.n.toNat ≤ i → arrGet (w := 8) t.block i = arrGet (w := 8) s.block i)) ∧
      (1 ≤ s.n.toNat → s.n.toNat ≤ s.origptr.toNat →
        t.block = s.block ∧ exec .bwtInverse s = .next (faulted 0x15#8 t) ∧
        exec .phaseInvertSort s = .next (faulted 0x15#8 t))

/-- R242 (a): the inverse transform of the last column and ORIGPTR that SORT leaves restores the block,
periodic blocks included. -/
def Obligations.SortThenInverseRestoresTheBlock : Prop :=
  ∀ s t v : State, paramsLegal s.par = true → arraysOk s → s.qstack = [] → 1 ≤ s.n.toNat →
    s.n.toNat ≤ capMax s.par → exec .bwtSort s = .next t →
    paramsLegal v.par = true → arraysOk v → v.n = t.n → v.n.toNat ≤ capMax v.par →
    v.origptr = t.origptr → (List.range v.n.toNat).map (llAt v) = lastColumnOf t →
    ∃ u, exec .bwtInverse v = .next u ∧ blockBytes u = blockBytes s

/-! ## Checksum and models -/

/-- R130 to R133: the three checksum operations and their frames; one byte through the table is eight steps
of the generating shift register over the accumulator with the byte folded in. -/
def Obligations.CrcOperations : Prop :=
  ∀ (s : State) (b : Byte),
    exec .crcInit s = .next { s with crc := 0xFFFFFFFF#32 } ∧
    exec (.crcUpdate b) s =
      .next { s with crc := (s.crc <<< 8) ^^^ crcTab ((s.crc >>> 24).setWidth 8 ^^^ b) } ∧
    exec (.crcUpdate b) s =
      .next { s with crc := crcShift 8 (s.crc ^^^ (b.zeroExtend 32 <<< 24)) } ∧
    exec .crcFinal s = .next { s with result := [~~~ s.crc] }

/-- R141 to R144, R350: the model operations in exact numbers, and MODEL_SYMBOL_RANGE for a symbol outside
the model. -/
def Obligations.ModelOperations : Prop :=
  ∀ (s : State) (m : ModelId) (sym : Nat), modelsOk s →
    (∃ t, exec (.modelInit m) s = .next t ∧ t = { s with models := t.models } ∧
      (∀ m', m' ≠ m → modelAt t m' = modelAt s m') ∧
      (modelAt t m).freq.map BitVec.toNat =
        List.replicate (numSymbols m) (if incOf s.par m = 0 then 1 else incOf s.par m) ∧
      (modelAt t m).totFreq.toNat =
        numSymbols m * (if incOf s.par m = 0 then 1 else incOf s.par m)) ∧
    (∃ t, exec (.modelRescale m) s = .next t ∧ t = { s with models := t.models } ∧
      (∀ m', m' ≠ m → modelAt t m' = modelAt s m') ∧
      (modelAt t m).freq.map BitVec.toNat =
        (modelAt s m).freq.map (fun f => (f.toNat + 1) / 2) ∧
      (modelAt t m).totFreq.toNat = ((modelAt t m).freq.map BitVec.toNat).sum) ∧
    (sym < numSymbols m →
      ∃ t, exec (.modelUpdate m sym) s = .next t ∧ t = { s with models := t.models } ∧
        (∀ m', m' ≠ m → modelAt t m' = modelAt s m') ∧
        (incOf s.par m = 0 → t = s) ∧
        (incOf s.par m ≠ 0 →
          (modelAt s m).totFreq.toNat + incOf s.par m ≤ limitOf s.par m →
          (modelAt t m).totFreq.toNat = (modelAt s m).totFreq.toNat + incOf s.par m ∧
          (modelAt t m).freq.map BitVec.toNat =
            ((modelAt s m).freq.map BitVec.toNat).set sym
              (freqNat (modelAt s m) sym + incOf s.par m)) ∧
        (incOf s.par m ≠ 0 →
          limitOf s.par m < (modelAt s m).totFreq.toNat + incOf s.par m →
          (modelAt t m).freq.map BitVec.toNat =
            (((modelAt s m).freq.map BitVec.toNat).set sym
              (freqNat (modelAt s m) sym + incOf s.par m)).map (fun f => (f + 1) / 2) ∧
          (modelAt t m).totFreq.toNat = ((modelAt t m).freq.map BitVec.toNat).sum)) ∧
    (numSymbols m ≤ sym →
      exec (.modelUpdate m sym) s = .next (faulted 0x30#8 s) ∧
      exec (.acEncode m sym) s = .next (faulted 0x30#8 s))

/-! ## The encoder -/

/-- R155, R158, R161: the encoder's initialisation, bit-plus-follow and the flush. -/
def Obligations.EncoderPlainOperations : Prop :=
  ∀ (s : State) (b : Bool),
    exec .acEncInit s = .next { s with l := 0#32, r := 33554432#32, bo := 0#32 } ∧
    exec (.acBitPlusFollow b) s =
      .next { s with bitOut := s.bitOut ++ b :: List.replicate s.bo.toNat (!b), bo := 0#32 } ∧
    exec .acEncFlush s =
      .next { s with
        bitOut := s.bitOut ++ s.l.getLsbD 25 :: List.replicate s.bo.toNat (!s.l.getLsbD 25) ++
          (List.range 25).map (fun i => s.l.getLsbD (24 - i))
        bo := 0#32 }

/-- R159, R157, R160: `enc_renorm` doubles the interval until `R > QUARTER`, deciding or postponing one bit
a time: the interval's lower end, read from the bits pushed, the bits pending and L, is exactly scaled.
At BO_LIMIT a postponed bit raises BITS_RUNAWAY. -/
def Obligations.RenormScalesTheInterval : Prop :=
  ∀ s : State,
    (1 ≤ s.r.toNat → s.r ≤ half → s.l.toNat + s.r.toNat ≤ 2 ^ 26 →
      s.bo.toNat + 25 ≤ boLimit.toNat →
      ∃ t j, exec .acEncRenorm s = .next t ∧
        t = { s with l := t.l, r := t.r, bo := t.bo, bitOut := t.bitOut } ∧ j ≤ 25 ∧
        rangeOk t ∧ t.r.toNat = s.r.toNat * 2 ^ j ∧ t.l.toNat + t.r.toNat ≤ 2 ^ 26 ∧
        s.bitOut <+: t.bitOut ∧
        t.bitOut.length + t.bo.toNat = s.bitOut.length + s.bo.toNat + j ∧
        lowEnd t = lowEnd s * 2 ^ j) ∧
    (s.r ≤ quarter → s.l < half → half.toNat < s.l.toNat + s.r.toNat → s.bo = boLimit →
      exec .acEncRenorm s =
        .next (faulted 0x31#8 { s with l := s.l - quarter, bo := 500000001#32 }))

/-- R156, R157, R169: `ac.encode` takes the symbol's part of the interval, renormalises it and updates the
model; `ac.put_u8` is the encoding of the byte through BOGUS. -/
def Obligations.EncodeTakesTheSymbolsPart : Prop :=
  ∀ (s : State) (m : ModelId) (sym : Nat), modelsOk s → sym < numSymbols m → encoderOk 1 s →
    (∃ t j, exec (.acEncode m sym) s = .next t ∧
      t = { s with l := t.l, r := t.r, bo := t.bo, bitOut := t.bitOut, models := t.models } ∧
      j ≤ 25 ∧ t.r.toNat = narrowedRange s (modelAt s m) sym * 2 ^ j ∧ rangeOk t ∧
      t.l.toNat + t.r.toNat ≤ 2 ^ 26 ∧ s.bitOut <+: t.bitOut ∧
      t.bitOut.length + t.bo.toNat = s.bitOut.length + s.bo.toNat + j ∧
      lowEnd t =
        (lowEnd s + stepOf s (modelAt s m) * lowCumNat (modelAt s m) sym) * 2 ^ j ∧
      exec (.modelUpdate m sym) s = .next { s with models := t.models } ∧
      (∀ k, encoderOk (k + 1) s → encoderOk k t)) ∧
    (∀ b : Byte, ∃ t, exec (.acPutU8 b) s = .next t ∧ exec (.acEncode bogusModel b.toNat) s = .next t)

/-- R170, R193 to R195, R100 to R104, R156: every operation and every item that is sent completes as the
encoding of its symbols in order, and changes only coder, models and BIT_OUT.  A rank of 0 "is never
passed" (R194): the model refuses it (log entry 10).  That a row of format BASIS or STREAM performed by itself
is sent when MODE is not decompress is the model's choice (log entry 12). -/
def Obligations.SendsAreEncodings : Prop :=
  ∀ s : State, modelsOk s →
    (∀ w, encoderOk 4 s → sends (.acPutU32 w) (wordItems w) s) ∧
    (∀ k, encoderOk 32 s → sends (.mtfSendZeroes k) (runItems k.toNat) s) ∧
    (∀ v, v ≠ 0#8 → encoderOk 2 s → sends (.mtfSendVal v) (valueItems v.toNat) s) ∧
    exec (.mtfSendVal 0#8) s = .refused .operandNeverPassed ∧
    (encoderOk 1 s → sends .mtfSendEob [(basisModel, 10)] s) ∧
    (s.mode ≠ .decompress →
      (∀ i sym, (i, sym) ∈ basisRows → encoderOk 1 s → sends i [(basisModel, sym)] s) ∧
      (∀ w, encoderOk 4 s →
        sends (.streamOrigword w) (wordItems w) s ∧ sends (.streamCrc32 w) (wordItems w) s))

/-- R197, R198, R104, R196, R305: ENCODE sends the `origPtr` word and the recoded last column, from fresh
models and the identity list, with the coder's state carried on. -/
def Obligations.EncodeBlockSendsTheBlock : Prop :=
  ∀ s : State, paramsLegal s.par = true → s.n.toNat ≤ capMax s.par → startsBelow s 0 s.n.toNat →
    encoderOk (2 * s.n.toNat + 5) s →
    ∃ t u, exec .mtfEncodeBlock s = .next t ∧ exec .phaseEncode s = .next (nextPhase t) ∧
      encodeItems
        (blockItems (if s.finalBlock then 0#32 - (s.origptr + 1#32) else s.origptr + 1#32)
          (lastColumnOf s))
        { s with models := initialModels s.par } = .ok () u ∧
      u = { s with l := u.l, r := u.r, bo := u.bo, bitOut := u.bitOut, models := u.models } ∧
      t = { u with yy := listAfter initialList (lastColumnOf s), zp := 0#32 } ∧
      modelsOk t ∧ encoderOk 0 t

/-- R306, R315, R133, R335: TRAILER_C sends the complemented checksum and flushes the coder; TRAILER_D reads
a word and compares it; both end the run through the transition. -/
def Obligations.TrailersCarryTheChecksum : Prop :=
  ∀ s : State,
    (modelsOk s → encoderOk 4 s →
      ∃ u, encodeItems (wordItems (~~~ s.crc)) s = .ok () u ∧
        u = { s with l := u.l, r := u.r, bo := u.bo, bitOut := u.bitOut, models := u.models } ∧
        exec .phaseTrailerC s =
          .next (nextPhase { u with
            bitOut := u.bitOut ++ u.l.getLsbD 25 :: List.replicate u.bo.toNat (!u.l.getLsbD 25) ++
              (List.range 25).map (fun i => u.l.getLsbD (24 - i))
            bo := 0#32 })) ∧
    (∀ w u,
      decodeItems [bogusModel, bogusModel, bogusModel, bogusModel] s =
        .ok ((wordItems w).map Prod.snd) u →
      exec .phaseTrailerD s =
        .next (if w = ~~~ s.crc then nextPhase u else faulted 0x14#8 u))

/-! ## The decoder -/

/-- R165, R343: `ac.dec_start` primes D with 26 bits, the first the most significant; it raises TRUNCATED
when the source ends first, and waits when the source only pauses.  That the waiting operation leaves the
bits it has seen in the port is the model's choice (log entry 1). -/
def Obligations.DecStartPrimesTheDecoder : Prop :=
  ∀ s : State,
    (26 ≤ s.bitIn.length →
      exec .acDecStart s =
        .next { s with
          r := 33554432#32, d := BitVec.ofNat 32 (bitsValue (s.bitIn.take 26))
          bitIn := s.bitIn.drop 26 }) ∧
    (s.bitIn.length < 26 →
      (s.bitInEod = true →
        exec .acDecStart s =
          .next (faulted 0x11#8 { s with
            r := 33554432#32, d := BitVec.ofNat 32 (bitsValue s.bitIn), bitIn := [] })) ∧
      (s.bitInEod = false → exec .acDecStart s = .next s))

/-- R166, R167: `ac.decode` returns the symbol whose cumulative range holds the target, takes its part of
the interval, pulls one bit for each doubling and updates the model as the encoder does. -/
def Obligations.DecodeReturnsTheSymbol : Prop :=
  ∀ (s : State) (m : ModelId), modelsOk s → rangeOk s → 25 ≤ s.bitIn.length →
    ∃ t sym j, exec (.acDecode m) s = .next t ∧
      t = { s with
        r := t.r, d := t.d, bitIn := s.bitIn.drop j, models := t.models
        result := [BitVec.ofNat 32 sym] } ∧
      sym < numSymbols m ∧ lowCumNat (modelAt s m) sym ≤ targetOf s (modelAt s m) ∧
      targetOf s (modelAt s m) < lowCumNat (modelAt s m) sym + freqNat (modelAt s m) sym ∧
      j ≤ 25 ∧ rangeOk t ∧ t.r.toNat = narrowedRange s (modelAt s m) sym * 2 ^ j ∧
      t.d =
        (s.d - BitVec.ofNat 32 (stepOf s (modelAt s m) * lowCumNat (modelAt s m) sym)) *
            BitVec.ofNat 32 (2 ^ j) +
          BitVec.ofNat 32 (bitsValue (s.bitIn.take j)) ∧
      (s.d < s.r → t.d < t.r) ∧
      exec (.modelUpdate m sym) s = .next { s with models := t.models }

/-- R171, R172, R343: the integer reads return the symbols of BOGUS as one byte or as four, most significant
first; a source that has ended raises TRUNCATED. -/
def Obligations.IntegersAreRead : Prop :=
  ∀ s : State, modelsOk s → rangeOk s →
    (25 ≤ s.bitIn.length →
      ∃ (b : Byte) (u : State), decodeItems [bogusModel] s = .ok [b.toNat] u ∧
        u = { s with r := u.r, d := u.d, bitIn := u.bitIn, models := u.models } ∧
        exec .acGetU8 s = .next { u with result := [b.zeroExtend 32] }) ∧
    (100 ≤ s.bitIn.length →
      ∃ (w : Word) (u : State),
        decodeItems [bogusModel, bogusModel, bogusModel, bogusModel] s =
          .ok ((wordItems w).map Prod.snd) u ∧
        u = { s with r := u.r, d := u.d, bitIn := u.bitIn, models := u.models } ∧
        exec .acGetU32 s = .next { u with result := [w] }) ∧
    (s.bitIn = [] → s.bitInEod = true →
      ∃ t, exec .acGetU8 s = .next (faulted 0x11#8 t) ∧ exec .acGetU32 s = .next (faulted 0x11#8 t) ∧
        t = { s with r := t.r, d := t.d })

/-- R173, R168: what the encoder pushed for a symbol sequence, from its initialisation to its flush, the
decoder reads back from its start: the same symbols, the same models, every bit and none more, and D ends
at 0. -/
def Obligations.DecoderFollowsEncoder : Prop :=
  ∀ (s : State) (items : List Item), modelsOk s → (∀ item ∈ items, itemOk item) →
    25 * items.length ≤ boLimit.toNat →
    ∃ (e f : State) (pushed : List Bool),
      encodeItems items { s with l := 0#32, r := half, bo := 0#32 } = .ok () e ∧
      exec .acEncFlush e = .next f ∧ f.bitOut = s.bitOut ++ pushed ∧
      ∀ (d : State) (extra : List Bool), d.models = s.models → d.par = s.par →
        d.bitIn = pushed ++ extra →
        ∃ g u, exec .acDecStart d = .next g ∧
          decodeItems (items.map Prod.fst) g = .ok (items.map Prod.snd) u ∧
          u.bitIn = extra ∧ u.models = f.models ∧ u.d = 0#32

/-! ## The move-to-front codec -/

/-- R190 to R192, R199: the list operations, and that `mtf.take` undoes `mtf.rank`. -/
def Obligations.ListOperations : Prop :=
  ∀ s : State, listOk s →
    (∃ t, exec .mtfInit s = .next t ∧ t = { s with yy := t.yy } ∧ t.yy.length = 256 ∧
      ∀ j, j < 256 → t.yy.getD j 0#8 = BitVec.ofNat 8 j) ∧
    (∀ b : Byte,
      exec (.mtfRank b) s =
        .next { s with yy := b :: s.yy.erase b, result := [BitVec.ofNat 32 (s.yy.idxOf b)] }) ∧
    (∀ v : Byte,
      exec (.mtfTake v) s =
        .next { s with
          yy := s.yy.getD v.toNat 0#8 :: s.yy.erase (s.yy.getD v.toNat 0#8)
          result := [(s.yy.getD v.toNat 0#8).zeroExtend 32] }) ∧
    (∀ b : Byte,
      exec (.mtfTake (BitVec.ofNat 8 (s.yy.idxOf b))) s =
        .next { s with yy := b :: s.yy.erase b, result := [b.zeroExtend 32] })

/-- R102, R193, R201, R203, R104: one run digit with its capacity check; the digits of the run string of
`k` add up to `k`; the check of the `origPtr` word's magnitude. -/
def Obligations.RunDigitsAndOrigptr : Prop :=
  ∀ s : State,
    (∀ (d : RunDigit) (t : State),
      t = { s with
        runacc := s.runacc + (match d with | .runa => 2#32 * s.runw | .runb => s.runw)
        runw := s.runw <<< 1 } →
      (s.pos.toNat + t.runacc.toNat ≤ capOf s → exec (.mtfAbsorb d) s = .next t) ∧
      (capOf s < s.pos.toNat + t.runacc.toNat →
        exec (.mtfAbsorb d) s = .next (faulted 0x12#8 t))) ∧
    (∀ k, s.pos.toNat + k ≤ capOf s → s.runacc = 0#32 → s.runw = 1#32 →
      runValue (runString k) = k ∧
      absorbAll (runString k) s =
        .ok () { s with
          runacc := BitVec.ofNat 32 k, runw := BitVec.ofNat 32 (2 ^ (runString k).length) }) ∧
    (∀ mag : Word,
      (mag ≠ 0#32 → mag.toNat - 1 < s.n.toNat →
        exec (.mtfCheckOrigptr mag) s = .next { s with origptr := mag - 1#32 }) ∧
      (mag = 0#32 ∨ s.n.toNat ≤ mag.toNat - 1 →
        exec (.mtfCheckOrigptr mag) s = .next (faulted 0x15#8 s)))

/-- R200, R201, R101, R202: what the core does with each basis symbol it receives: a digit is absorbed, EOB
writes the run out, a value writes the run out, reads its offset and takes its byte from the list; a value
that does not fit raises BLOCK_OVERRUN, one of a class after its offset was decoded.  That such a row
performed by itself is received when MODE is decompress is the model's choice (log entry 12), and so it is that LL past
what is written keeps its values (log entry 28). -/
def Obligations.BasisSymbolsAreReceived : Prop :=
  ∀ s : State, paramsLegal s.par = true → arraysOk s → listOk s → s.mode = .decompress →
    s.level.toNat ≤ s.par.maxLevel →
    exec .basisRuna s = exec (.mtfAbsorb .runa) s ∧
    exec .basisRunb s = exec (.mtfAbsorb .runb) s ∧
    (s.pos.toNat + s.runacc.toNat ≤ capOf s →
      ∃ f, exec .basisEob s = .next f ∧
        appendsLl s f (List.replicate s.runacc.toNat (s.yy.getD 0 0#8)) ∧
        f = { s with
          ll := f.ll, pos := s.pos + s.runacc, runacc := 0#32
          runw := if s.runacc = 0#32 then s.runw else 1#32 } ∧
        (s.pos.toNat + s.runacc.toNat + 1 ≤ capOf s →
          (∃ t, exec .basisOne s = .next t ∧ appendsLl f t [s.yy.getD 1 0#8] ∧
            t = { f with
              ll := t.ll, pos := f.pos + 1#32
              yy := s.yy.getD 1 0#8 :: s.yy.erase (s.yy.getD 1 0#8) }) ∧
          (∀ i c, (i, c + 2) ∈ basisRows → 1 ≤ c → c ≤ 7 → modelsOk s → rangeOk s →
            25 ≤ s.bitIn.length →
            ∃ t u off, exec i s = .next t ∧ decodeItems [Fin.ofNat 9 c] f = .ok [off] u ∧
              off < 2 ^ c ∧ appendsLl f t [s.yy.getD (2 ^ c + off) 0#8] ∧
              t = { u with
                ll := t.ll, pos := f.pos + 1#32
                yy := s.yy.getD (2 ^ c + off) 0#8 ::
                  s.yy.erase (s.yy.getD (2 ^ c + off) 0#8) })) ∧
        (s.pos.toNat + s.runacc.toNat = capOf s →
          exec .basisOne s = .next (faulted 0x12#8 f) ∧
          (∀ i c, (i, c + 2) ∈ basisRows → 1 ≤ c → c ≤ 7 → modelsOk s → rangeOk s →
            25 ≤ s.bitIn.length →
            ∃ u off, decodeItems [Fin.ofNat 9 c] f = .ok [off] u ∧ off < 2 ^ c ∧
              exec i s = .next (faulted 0x12#8 u))))

/-- R96, R301, R310, R104, R103, R315, R105, R106, R262, R267: the magic sent and judged; the `origPtr` word
and the checksum received; the units and the sentinel put into a block, or pushed as UNRLE pushes them.
The direction by MODE is the model's choice (log entry 12), and so it is that BLOCK past what is written keeps
its values (log entry 28). -/
def Obligations.StreamAndBlockItems : Prop :=
  ∀ (s : State) (lvl : BitVec 4) (w : Word) (c count : Byte) (r : BitVec 2),
    paramsLegal s.par = true → arraysOk s →
    (s.mode ≠ .decompress →
      exec (.streamMagic lvl) s =
        .next { s with
          bitOut := s.bitOut ++
            (List.range 32).map fun i => (0x425A3030 + lvl.toNat).testBit (31 - i) } ∧
      (s.pos.toNat + r.toNat ≤ blockSize s →
        ∃ t, exec (.rle1Short c r) s = .next t ∧ appendsBlock s t (List.replicate r.toNat c) ∧
          t = { s with block := t.block, pos := s.pos + BitVec.ofNat 32 r.toNat }) ∧
      (s.pos.toNat + 5 ≤ blockSize s →
        ∃ t, exec (.rle1Long c count) s = .next t ∧ appendsBlock s t [c, c, c, c, count] ∧
          t = { s with block := t.block, pos := s.pos + 5#32 }) ∧
      (s.pos.toNat + 1 ≤ blockSize s →
        ∃ t, exec .rle1Sentinel s = .next t ∧ appendsBlock s t [42#8] ∧
          t = { s with block := t.block, pos := s.pos + 1#32, finalBlock := true })) ∧
    (s.mode = .decompress →
      (1 ≤ lvl.toNat ∧ lvl.toNat ≤ 9 →
        exec (.streamMagic lvl) s =
          .next (if lvl.toNat ≤ s.par.maxLevel then { s with level := lvl }
            else faulted 0x20#8 { s with level := lvl })) ∧
      (¬ (1 ≤ lvl.toNat ∧ lvl.toNat ≤ 9) →
        exec (.streamMagic lvl) s = .next (faulted 0x10#8 s)) ∧
      exec (.streamOrigword w) s =
        .next { s with
          finalBlock := w.getLsbD 31, result := [if w.getLsbD 31 then 0#32 - w else w] } ∧
      exec (.streamCrc32 w) s = .next (if w = ~~~ s.crc then s else faulted 0x14#8 s) ∧
      exec (.rle1Short c r) s =
        .next { s with
          byteOut := s.byteOut ++ List.replicate r.toNat c
          crc := crcOver s.crc (List.replicate r.toNat c) } ∧
      exec (.rle1Long c count) s =
        .next { s with
          byteOut := s.byteOut ++ List.replicate (4 + count.toNat) c
          crc := crcOver s.crc (List.replicate (4 + count.toNat) c) } ∧
      exec .rle1Sentinel s = .next s)

/-- R200 to R204, R97, R311: DECODE restores the column a symbol sequence stands for.  Every column has such
a sequence, and every sequence of basis and class symbols that ends in EOB is that of exactly one column;
whenever the decoder reads it, LL, N, FINAL and ORIGPTR are as the block had them, or BAD_ORIGPTR is raised
for a word that fits no rotation.  That LL past the column keeps its values is the model's choice (log entry
28). -/
def Obligations.DecodeBlockRestoresTheColumn : Prop :=
  (∀ column : List Byte, blockString (rankItems 0 (ranksOf initialList column)) = true) ∧
  (∀ items : List Item, blockString items = true →
    ∃ column, rankItems 0 (ranksOf initialList column) = items ∧
      ∀ other, rankItems 0 (ranksOf initialList other) = items → other = column) ∧
  ∀ (s u : State) (w : Word) (column : List Byte), paramsLegal s.par = true → arraysOk s →
    s.level.toNat ≤ s.par.maxLevel → column.length ≤ capOf s →
    decodeItems ((blockItems w column).map Prod.fst) { s with models := initialModels s.par } =
      .ok ((blockItems w column).map Prod.snd) u →
    ∃ t, t = { u with
        yy := listAfter initialList column, runacc := 0#32, runw := 1#32, ll := t.ll
        pos := BitVec.ofNat 32 column.length, n := BitVec.ofNat 32 column.length
        finalBlock := w.getLsbD 31 } ∧
      (∀ i, llAt t i = if i < column.length then column.getD i 0#8 else llAt s i) ∧
      ∀ mag : Word, mag = (if w.getLsbD 31 then 0#32 - w else w) →
        (mag ≠ 0#32 → mag.toNat - 1 < column.length →
          exec .mtfDecodeBlock s = .next { t with origptr := mag - 1#32 } ∧
          exec .phaseDecode s = .next (nextPhase { t with origptr := mag - 1#32 })) ∧
        (mag = 0#32 ∨ column.length ≤ mag.toNat - 1 →
          exec .mtfDecodeBlock s = .next (faulted 0x15#8 t) ∧
          exec .phaseDecode s = .next (faulted 0x15#8 t))

end
end

