-- ==== Sys2Proof/Laws/Invariants.lean ====
section
/-! SUPPORT. Boolean forms of the invariants, for states that are written out. -/

namespace Sys2Proof.Machine

/-- A Boolean form of `modelOk`. -/
def modelCheck (p : Params) (m : ModelId) (fm : FreqModel) : Bool :=
  fm.freq.length == numSymbols m && fm.freq.all (fun f => 1 ≤ f.toNat) &&
    fm.totFreq.toNat == (fm.freq.map BitVec.toNat).sum &&
    decide (fm.totFreq.toNat ≤ limitOf p m) &&
    (m != bogusModel || fm.freq.all (fun f => f == 1#32))

/-- A Boolean form of `modelsOk`. -/
def modelsCheck (s : State) : Bool :=
  paramsLegal s.par && s.models.length == 9 &&
    ([0, 1, 2, 3, 4, 5, 6, 7, 8] : List ModelId).all fun m => modelCheck s.par m (modelAt s m)

theorem modelOk_of_check {p : Params} {m : ModelId} {fm : FreqModel}
    (h : modelCheck p m fm = true) : modelOk p m fm := by
  simp only [modelCheck, Bool.and_eq_true, beq_iff_eq, List.all_eq_true, decide_eq_true_eq,
    Bool.or_eq_true, bne_iff_ne] at h
  obtain ⟨⟨⟨⟨h1, h2⟩, h3⟩, h4⟩, h5⟩ := h
  exact ⟨h1, h2, h3, h4, fun hm => h5.resolve_left fun hn => hn hm⟩

theorem modelsOk_of_check {s : State} (h : modelsCheck s = true) : modelsOk s := by
  simp only [modelsCheck, Bool.and_eq_true, beq_iff_eq, List.all_eq_true] at h
  exact ⟨h.1.1, h.1.2, fun m => modelOk_of_check (h.2 m (by revert m; decide))⟩

end Sys2Proof.Machine
end

