-- ==== Sys2Proof/Laws/Seq.lean ====
section
/-! SUPPORT. How the sequencer's statements run: one lemma per statement form, the inversion of `perform`,
and the rule that carries a property of the state through an operation. -/

namespace Sys2Proof.Machine

variable {α β : Type}

/-! ## Statement forms -/

theorem seq_pure (a : α) (s : State) : (pure a : Seq α) s = .ok a s := rfl

theorem seq_bind (x : Seq α) (f : α → Seq β) (s : State) :
    (x >>= f) s = match x s with
      | .ok a t => f a t
      | .error e t => .error e t := by
  change EStateM.bind x f s = _
  unfold EStateM.bind
  cases x s <;> rfl

theorem seq_get (s : State) : (get : Seq State) s = .ok s s := rfl

theorem seq_set (t s : State) : (set t : Seq Unit) s = .ok () t := rfl

theorem seq_modify (f : State → State) (s : State) : (modify f : Seq Unit) s = .ok () (f s) := rfl

theorem seq_throw (e : Stop) (s : State) : (throw e : Seq α) s = .error e s := rfl

theorem raise_apply (f : FaultCode) (s : State) : (raise f : Seq α) s = .error (.raise f) s := rfl

theorem defect_apply (f : Fault) (s : State) : (defect f : Seq α) s = .error (.defect f) s := rfl

theorem seq_ite (c : Prop) [Decidable c] (x y : Seq α) (s : State) :
    (if c then x else y) s = if c then x s else y s := by
  split <;> rfl

/-- A sequence ends normally exactly when both parts do. -/
theorem seq_bind_ok_iff (x : Seq α) (f : α → Seq β) (s u : State) (b : β) :
    (x >>= f) s = .ok b u ↔ ∃ a t, x s = .ok a t ∧ f a t = .ok b u := by
  rw [seq_bind]
  cases h : x s with
  | ok a t => simp
  | error e t => simp

/-- A sequence stops exactly when its first part stops, or its second after it. -/
theorem seq_bind_error_iff (x : Seq α) (f : α → Seq β) (s u : State) (e : Stop) :
    (x >>= f) s = .error e u ↔
      x s = .error e u ∨ ∃ a t, x s = .ok a t ∧ f a t = .error e u := by
  rw [seq_bind]
  cases h : x s with
  | ok a t => simp
  | error e' t => simp

/-! ## Loops -/

theorem loopUp_zero (body : Nat → Seq Unit) (i : Nat) (s : State) :
    loopUp body i 0 s = .ok () s := rfl

theorem loopUp_succ (body : Nat → Seq Unit) (i k : Nat) :
    loopUp body i (k + 1) = (do body i; loopUp body (i + 1) k) := rfl

theorem loopDown_zero (body : Nat → Seq Unit) (s : State) : loopDown body 0 s = .ok () s := rfl

theorem loopDown_succ (body : Nat → Seq Unit) (k : Nat) :
    loopDown body (k + 1) = (do body k; loopDown body k) := rfl

theorem repeatTimes_zero (body : Seq Unit) (s : State) : repeatTimes body 0 s = .ok () s := rfl

theorem repeatTimes_succ (body : Seq Unit) (k : Nat) :
    repeatTimes body (k + 1) = (do body; repeatTimes body k) := rfl

/-- A loop whose every pass ends normally from `I i` in `I (i + 1)` ends normally in `I (i + k)`. -/
theorem loopUp_total (body : Nat → Seq Unit) (I : Nat → State → Prop) :
    ∀ (k i : Nat) (s : State), I i s →
      (∀ j t, i ≤ j → j < i + k → I j t → ∃ u, body j t = .ok () u ∧ I (j + 1) u) →
      ∃ u, loopUp body i k s = .ok () u ∧ I (i + k) u
  | 0, i, s, h, _ => ⟨s, rfl, h⟩
  | k + 1, i, s, h, hb => by
    obtain ⟨t, ht, hI⟩ := hb i s (Nat.le_refl _) (by omega) h
    obtain ⟨u, hu, hJ⟩ := loopUp_total body I k (i + 1) t hI
      (fun j t h1 h2 => hb j t (by omega) (by omega))
    refine ⟨u, ?_, by rwa [show i + (k + 1) = i + 1 + k by omega]⟩
    rw [loopUp_succ, seq_bind, ht]
    exact hu

/-- The same for a descending loop. -/
theorem loopDown_total (body : Nat → Seq Unit) (I : Nat → State → Prop) :
    ∀ (k : Nat) (s : State), I k s →
      (∀ j t, j < k → I (j + 1) t → ∃ u, body j t = .ok () u ∧ I j u) →
      ∃ u, loopDown body k s = .ok () u ∧ I 0 u
  | 0, s, h, _ => ⟨s, rfl, h⟩
  | k + 1, s, h, hb => by
    obtain ⟨t, ht, hI⟩ := hb k s (by omega) h
    obtain ⟨u, hu, hJ⟩ := loopDown_total body I k t hI (fun j t h1 => hb j t (by omega))
    refine ⟨u, ?_, hJ⟩
    rw [loopDown_succ, seq_bind, ht]
    exact hu

/-! ## Outcomes -/

/-- Everything `perform` can answer as a next state: the operation's end, a fault taken, or a wait. -/
theorem perform_next_iff (op : Seq α) (s t : State) :
    perform op s = .next t ↔
      (∃ a, op s = .ok a t) ∨ (∃ f u, op s = .error (.raise f) u ∧ t = takeFault f u) ∨
        (∃ u, op s = .error .wait u ∧ t = s) := by
  unfold perform
  cases h : op s with
  | ok a u => simp
  | error e u => cases e <;> simp [eq_comm]

theorem perform_of_ok {op : Seq α} {s t : State} {a : α} (h : op s = .ok a t) :
    perform op s = .next t := by
  simp [perform, h]

theorem perform_of_raise {op : Seq α} {s t : State} {f : FaultCode}
    (h : op s = .error (.raise f) t) : perform op s = .next (takeFault f t) := by
  simp [perform, h]

theorem perform_of_wait {op : Seq α} {s t : State} (h : op s = .error .wait t) :
    perform op s = .next s := by
  simp [perform, h]

theorem performValue_of_ok {g : α → List Word} {op : Seq α} {s t : State} {a : α}
    (h : op s = .ok a t) : performValue g op s = .next { t with result := g a } := by
  apply perform_of_ok (a := ())
  rw [seq_bind, h]
  rfl

theorem performPhase_of_ok {op : Seq Unit} {s t : State} (h : op s = .ok () t) :
    performPhase op s = .next (nextPhase t) := by
  apply perform_of_ok (a := ())
  rw [seq_bind, h]
  rfl

/-! ## Properties an operation keeps -/

/-- `op` keeps `P`: from a state with `P` it ends, or raises a fault, in a state with `P`. -/
def Keeps (P : State → Prop) (op : Seq α) : Prop :=
  ∀ s, P s → match op s with
    | .ok _ t => P t
    | .error (.raise _) t => P t
    | .error _ _ => True

theorem keeps_pure (P : State → Prop) (a : α) : Keeps P (pure a) := fun _ h => h

theorem keeps_bind {P : State → Prop} {x : Seq α} {f : α → Seq β} (hx : Keeps P x)
    (hf : ∀ a, Keeps P (f a)) : Keeps P (x >>= f) := by
  intro s hs
  rw [seq_bind]
  have h1 := hx s hs
  cases h : x s with
  | ok a t => rw [h] at h1; exact hf a t h1
  | error e t => rw [h] at h1; cases e <;> exact h1

theorem keeps_get (P : State → Prop) : Keeps P (get : Seq State) := fun _ h => h

theorem keeps_modify {P : State → Prop} {f : State → State} (h : ∀ s, P s → P (f s)) :
    Keeps P (modify f : Seq Unit) := fun s hs => h s hs

/-- A statement that reads the state first and goes on with what it read. -/
theorem keeps_get_bind {P : State → Prop} {f : State → Seq β}
    (h : ∀ s, P s → match f s s with
      | .ok _ t => P t
      | .error (.raise _) t => P t
      | .error _ _ => True) : Keeps P ((get : Seq State) >>= f) := by
  intro s hs
  rw [seq_bind, seq_get]
  exact h s hs

theorem keeps_raise (P : State → Prop) (f : FaultCode) : Keeps P (raise f : Seq α) := fun _ h => h

theorem keeps_defect (P : State → Prop) (f : Fault) : Keeps P (defect f : Seq α) :=
  fun _ _ => trivial

theorem keeps_wait (P : State → Prop) : Keeps P (throw .wait : Seq α) := fun _ _ => trivial

theorem keeps_outside (P : State → Prop) (r : Refusal) : Keeps P (throw (.outside r) : Seq α) :=
  fun _ _ => trivial

theorem keeps_ite {P : State → Prop} {c : Prop} [Decidable c] {x y : Seq α} (hx : Keeps P x)
    (hy : Keeps P y) : Keeps P (if c then x else y) := by
  split <;> assumption

theorem keeps_loopUp {P : State → Prop} {body : Nat → Seq Unit} (h : ∀ i, Keeps P (body i)) :
    ∀ k i, Keeps P (loopUp body i k)
  | 0, _ => keeps_pure P ()
  | k + 1, i => keeps_bind (h i) fun _ => keeps_loopUp h k (i + 1)

theorem keeps_loopDown {P : State → Prop} {body : Nat → Seq Unit} (h : ∀ i, Keeps P (body i)) :
    ∀ k, Keeps P (loopDown body k)
  | 0 => keeps_pure P ()
  | k + 1 => keeps_bind (h k) fun _ => keeps_loopDown h k

theorem keeps_repeatTimes {P : State → Prop} {body : Seq Unit} (h : Keeps P body) :
    ∀ k, Keeps P (repeatTimes body k)
  | 0 => keeps_pure P ()
  | k + 1 => keeps_bind h fun _ => keeps_repeatTimes h k

/-- A property an operation and fault entry keep holds of the next state. -/
theorem perform_keeps {P : State → Prop} {op : Seq α} {s t : State} (hop : Keeps P op)
    (hf : ∀ f u, P u → P (takeFault f u)) (hs : P s) (h : perform op s = .next t) : P t := by
  have h1 := hop s hs
  rcases (perform_next_iff op s t).1 h with ⟨a, ha⟩ | ⟨f, u, hu, rfl⟩ | ⟨u, -, rfl⟩
  · rw [ha] at h1; exact h1
  · rw [hu] at h1; exact hf f u h1
  · exact hs

end Sys2Proof.Machine
end

