-- ==== Sys2Proof/Laws/Memory.lean ====
section
/-! SUPPORT. The array laws: a read after a write, every other element left alone, and the canonical form
kept; then the one lemma of each array operation of the sequencer. -/

namespace Sys2Proof.Machine

variable {w : Nat}

theorem arrGet_nil (i : Nat) : arrGet ([] : Arr w) i = unlisted w := rfl

/-- Below the first listed element nothing is listed. -/
theorem arrGet_of_lt {lo : Nat} {a : Arr w} (ha : arrWfFrom lo a = true) {i : Nat} (h : i < lo) :
    arrGet a i = unlisted w := by
  cases a with
  | nil => rfl
  | cons kv t =>
    obtain ⟨k, v⟩ := kv
    simp only [arrWfFrom, Bool.and_eq_true, decide_eq_true_eq] at ha
    simp [arrGet, show i < k by omega]

theorem arrWfFrom_mono {lo hi : Nat} (h : lo ≤ hi) {a : Arr w} (ha : arrWfFrom hi a = true) :
    arrWfFrom lo a = true := by
  cases a with
  | nil => rfl
  | cons kv t =>
    simp only [arrWfFrom, Bool.and_eq_true, decide_eq_true_eq] at ha ⊢
    exact ⟨⟨by omega, ha.1.2⟩, ha.2⟩

/-- A write keeps the canonical form. -/
theorem arrWfFrom_arrSet : ∀ (a : Arr w) (lo i : Nat) (v : BitVec w),
    arrWfFrom lo a = true → lo ≤ i → arrWfFrom lo (arrSet a i v) = true
  | [], lo, i, v, _, hi => by
    unfold arrSet
    split
    · rfl
    · simp [arrWfFrom, *]
  | (k, u) :: t, lo, i, v, ha, hi => by
    simp only [arrWfFrom, Bool.and_eq_true, decide_eq_true_eq] at ha
    obtain ⟨⟨hk, hu⟩, ht⟩ := ha
    unfold arrSet
    split
    · split
      · simp [arrWfFrom, hk, ht, bne_iff_ne.1 hu]
      · rename_i h1 h2
        simp [arrWfFrom, hi, ht, bne_iff_ne.1 hu, h2, show i + 1 ≤ k by omega]
    · split
      · split
        · exact arrWfFrom_mono (by omega) ht
        · rename_i h1 h2 h3
          simp [arrWfFrom, hk, ht, h3]
      · have := arrWfFrom_arrSet t (k + 1) i v ht (by omega)
        simp [arrWfFrom, hk, bne_iff_ne.1 hu, this]

/-- A write keeps the canonical form. -/
theorem arrWf_arrSet {a : Arr w} (ha : arrWf a = true) (i : Nat) (v : BitVec w) :
    arrWf (arrSet a i v) = true := arrWfFrom_arrSet a 0 i v ha (Nat.zero_le i)

/-- A write leaves every other element alone. -/
theorem arrGet_arrSet_other : ∀ (a : Arr w) (i j : Nat) (v : BitVec w), j ≠ i →
    arrWf a = true → arrGet (arrSet a i v) j = arrGet a j := by
  suffices h : ∀ (a : Arr w) (lo i j : Nat) (v : BitVec w), j ≠ i → arrWfFrom lo a = true →
      arrGet (arrSet a i v) j = arrGet a j from fun a i j v hj ha => h a 0 i j v hj ha
  intro a
  induction a with
  | nil =>
    intro lo i j v hj _
    unfold arrSet
    split
    · rfl
    · by_cases h : j < i <;> simp [arrGet, h, hj]
  | cons kv t ih =>
    obtain ⟨k, u⟩ := kv
    intro lo i j v hj ha
    simp only [arrWfFrom, Bool.and_eq_true, decide_eq_true_eq] at ha
    unfold arrSet
    split
    · split
      · rfl
      · by_cases h : j < i
        · simp [arrGet, h, show j < k by omega]
        · simp [arrGet, h, hj]
    · split
      · rename_i h1 h2
        subst h2
        split
        · by_cases h : j < i
          · rw [arrGet_of_lt ha.2 (by omega)]
            simp [arrGet, h]
          · simp [arrGet, h, hj]
        · by_cases h : j < i <;> simp [arrGet, h, hj]
      · by_cases h : j < k
        · simp [arrGet, h]
        · by_cases h' : j = k
          · simp [arrGet, h']
          · simp [arrGet, h, h', ih (k + 1) i j v hj ha.2]

/-- A read after a write to the same element gives the value written. -/
theorem arrGet_arrSet_same : ∀ (a : Arr w) (i : Nat) (v : BitVec w), arrWf a = true →
    arrGet (arrSet a i v) i = v := by
  suffices h : ∀ (a : Arr w) (lo i : Nat) (v : BitVec w), arrWfFrom lo a = true →
      arrGet (arrSet a i v) i = v from fun a i v ha => h a 0 i v ha
  intro a
  induction a with
  | nil =>
    intro lo i v _
    unfold arrSet
    split <;> simp_all [arrGet]
  | cons kv t ih =>
    obtain ⟨k, u⟩ := kv
    intro lo i v ha
    simp only [arrWfFrom, Bool.and_eq_true, decide_eq_true_eq] at ha
    unfold arrSet
    split
    · split <;> simp_all [arrGet]
    · split
      · rename_i h1 h2
        subst h2
        split
        · rename_i h3
          rw [arrGet_of_lt ha.2 (by omega), h3]
        · simp [arrGet]
      · rename_i h1 h2
        simp [arrGet, h1, h2, ih (k + 1) i v ha.2]

/-- At reset every array is in its canonical form. -/
theorem reset_arrays_wf :
    Memory.wf State.reset.block = true ∧ arrWf State.reset.zptr = true ∧
      Memory.wf State.reset.ll = true ∧ arrWf State.reset.nextIdx = true ∧
      arrWf State.reset.ftab = true ∧ arrWf State.reset.cc = true := by decide

/-! ## The sequencer's array operations -/

theorem checkIndex_of_lt {i size : Nat} (h : i < size) (s : State) :
    checkIndex i size s = .ok () s := by
  simp [checkIndex, h, seq_pure]

theorem checkIndex_of_not_lt {i size : Nat} (h : ¬ i < size) (s : State) :
    checkIndex i size s = .error (.defect .indexRange) s := by
  simp [checkIndex, h, defect_apply]

theorem keeps_checkIndex (P : State → Prop) (i size : Nat) : Keeps P (checkIndex i size) := by
  unfold checkIndex
  exact keeps_ite (keeps_pure P ()) (keeps_defect P _)

theorem readBlock_of_lt {i : Nat} {s : State} (h : i < blockSize s) :
    readBlock i s = .ok (arrGet (w := 8) s.block i) s := by
  simp only [readBlock, seq_bind, seq_get, checkIndex_of_lt h, seq_pure]

theorem writeBlock_of_lt {i : Nat} {v : Byte} {s : State} (h : i < blockSize s) :
    writeBlock i v s = .ok () { s with block := arrSet (w := 8) s.block i v } := by
  simp only [writeBlock, seq_bind, seq_get, checkIndex_of_lt h, seq_modify]

theorem readZptr_of_lt {i : Nat} {s : State} (h : i < capMax s.par) :
    readZptr i s = .ok (arrGet s.zptr i) s := by
  simp only [readZptr, seq_bind, seq_get, checkIndex_of_lt h, seq_pure]

theorem writeZptr_of_lt {i : Nat} {v : Word} {s : State} (h : i < capMax s.par) :
    writeZptr i v s = .ok () { s with zptr := arrSet s.zptr i v } := by
  simp only [writeZptr, seq_bind, seq_get, checkIndex_of_lt h, seq_modify]

theorem readLl_of_lt {i : Nat} {s : State} (h : i < capMax s.par) :
    readLl i s = .ok (arrGet (w := 8) s.ll i) s := by
  simp only [readLl, seq_bind, seq_get, checkIndex_of_lt h, seq_pure]

theorem writeLl_of_lt {i : Nat} {v : Byte} {s : State} (h : i < capMax s.par) :
    writeLl i v s = .ok () { s with ll := arrSet (w := 8) s.ll i v } := by
  simp only [writeLl, seq_bind, seq_get, checkIndex_of_lt h, seq_modify]

theorem readNext_of_lt {i : Nat} {s : State} (h : i < capMax s.par) :
    readNext i s = .ok (arrGet s.nextIdx i) s := by
  simp only [readNext, seq_bind, seq_get, checkIndex_of_lt h, seq_pure]

theorem writeNext_of_lt {i : Nat} {v : Word} {s : State} (h : i < capMax s.par) :
    writeNext i v s = .ok () { s with nextIdx := arrSet s.nextIdx i v } := by
  simp only [writeNext, seq_bind, seq_get, checkIndex_of_lt h, seq_modify]

theorem readFtab_of_lt {i : Nat} {s : State} (h : i < numBuckets + 1) :
    readFtab i s = .ok (arrGet s.ftab i) s := by
  simp only [readFtab, seq_bind, seq_get, checkIndex_of_lt h, seq_pure]

theorem writeFtab_of_lt {i : Nat} {v : Word} {s : State} (h : i < numBuckets + 1) :
    writeFtab i v s = .ok () { s with ftab := arrSet s.ftab i v } := by
  simp only [writeFtab, seq_bind, checkIndex_of_lt h, seq_modify]

theorem readCc_apply (b : Byte) (s : State) : readCc b s = .ok (arrGet s.cc b.toNat) s := rfl

theorem writeCc_apply (b : Byte) (v : Word) (s : State) :
    writeCc b v s = .ok () { s with cc := arrSet s.cc b.toNat v } := rfl

end Sys2Proof.Machine
end

