-- ==== Sys2Proof/Laws/Operations.lean ====
section
/-! SUPPORT. What each shared operation can do, said once: the ports, the models, the coder's steps, the list,
the run digits, the appends and the received items. -/

namespace Sys2Proof.Machine

/-! ## Ports -/

theorem pullByte_cons {s : State} {b : Byte} {rest : List Byte} (h : s.byteIn = b :: rest) :
    pullByte s = .ok (some b) { s with byteIn := rest, crc := crcNext s.crc b } := by
  simp only [pullByte, seq_bind, seq_get, h, seq_set, seq_pure]

theorem pullByte_eod {s : State} (h : s.byteIn = []) (he : s.byteInEod = true) :
    pullByte s = .ok none s := by
  simp only [pullByte, seq_bind, seq_get, h, he, if_true, seq_pure]

theorem pullByte_empty {s : State} (h : s.byteIn = []) (he : s.byteInEod = false) :
    pullByte s = .error .wait s := by
  simp only [pullByte, seq_bind, seq_get, h, he, Bool.false_eq_true, if_false, seq_throw]

theorem pullBit_cons {s : State} {b : Bool} {rest : List Bool} (h : s.bitIn = b :: rest) :
    pullBit s = .ok b { s with bitIn := rest } := by
  simp only [pullBit, seq_bind, seq_get, h, seq_set, seq_pure]

theorem pullBit_eod {s : State} (h : s.bitIn = []) (he : s.bitInEod = true) :
    pullBit s = .error (.raise .truncated) s := by
  simp only [pullBit, seq_bind, seq_get, h, he, if_true, raise_apply]

theorem pullBit_empty {s : State} (h : s.bitIn = []) (he : s.bitInEod = false) :
    pullBit s = .error .wait s := by
  simp only [pullBit, seq_bind, seq_get, h, he, Bool.false_eq_true, if_false, seq_throw]

theorem pushBits_apply (bits : List Bool) (s : State) :
    pushBits bits s = .ok () { s with bitOut := s.bitOut ++ bits } := rfl

theorem pushByte_apply (b : Byte) (s : State) :
    pushByte b s = .ok () { s with byteOut := s.byteOut ++ [b], crc := crcNext s.crc b } := rfl

/-- Pushing a byte `k` times: the bytes on BYTE_OUT and all of them in CRC. -/
theorem pushByte_repeat (b : Byte) : ∀ (k : Nat) (s : State),
    repeatTimes (pushByte b) k s =
      .ok () { s with
        byteOut := s.byteOut ++ List.replicate k b
        crc := crcOver s.crc (List.replicate k b) }
  | 0, s => by simp [repeatTimes_zero, crcOver]
  | k + 1, s => by
    rw [repeatTimes_succ, seq_bind, pushByte_apply]
    simp only [pushByte_repeat b k]
    simp [List.replicate_succ, crcOver]

/-! ## One run, one stream -/

/-- The items of the streams to come, after a FEED to them. -/
theorem supplyLater_items {α : Type} : ∀ (later : List (Supply α)) (items : List α) (eod : Bool),
    ((supplyLater later items eod).map Prod.fst).flatten =
      (later.map Prod.fst).flatten ++ items
  | [], items, eod => by simp [supplyLater]
  | [(front, ended)], items, eod => by cases ended <;> simp [supplyLater]
  | first :: second :: rest, items, eod => by
    simp only [supplyLater, List.map_cons, List.flatten_cons, List.append_assoc]
    rw [supplyLater_items (second :: rest) items eod]
    simp

/-- A stream fed for the next run alone is what that run is given. -/
theorem supplyLater_nil {α : Type} (items : List α) (eod : Bool) :
    supplyLater [] items eod = [(items, eod)] := rfl

theorem nextSupply_cons {α : Type} (first : Supply α) (rest : List (Supply α)) :
    nextSupply (first :: rest) = first := rfl

theorem nextSupply_nil {α : Type} : nextSupply ([] : List (Supply α)) = ([], false) := rfl

theorem byteStreamClosed_iff (s : State) :
    byteStreamClosed s = true ↔
      s.byteInEod = true ∨ s.byteInGiven = true ∧ (s.busy = false ∨ s.mode ≠ .compress) := by
  simp [byteStreamClosed]

theorem bitStreamClosed_iff (s : State) :
    bitStreamClosed s = true ↔
      s.bitInEod = true ∨ s.bitInGiven = true ∧ (s.busy = false ∨ s.mode ≠ .decompress) := by
  simp [bitStreamClosed]

/-! ## Checksum -/

theorem crcInitOp_apply (s : State) : crcInitOp s = .ok () { s with crc := crcStart } := rfl

theorem crcUpdateOp_apply (b : Byte) (s : State) :
    crcUpdateOp b s = .ok () { s with crc := crcNext s.crc b } := rfl

theorem crcFinalOp_apply (s : State) : crcFinalOp s = .ok (~~~ s.crc) s := rfl

/-- R135: the checksum of a concatenation. -/
theorem crcOver_append (crc : Word) (xs ys : List Byte) :
    crcOver crc (xs ++ ys) = crcOver (crcOver crc xs) ys := by
  simp [crcOver, List.foldl_append]

/-! ## Models -/

theorem readModel_apply (m : ModelId) (s : State) :
    readModel m s = .ok (s.models.getD m.val { totFreq := 0#32, freq := [] }) s := rfl

theorem writeModel_apply (m : ModelId) (fm : FreqModel) (s : State) :
    writeModel m fm s = .ok () { s with models := s.models.set m.val fm } := rfl

theorem checkSymbol_of_lt {m : ModelId} {sym : Nat} (h : sym < numSymbols m) (s : State) :
    checkSymbol m sym s = .ok () s := by
  simp only [checkSymbol, seq_ite, h, if_true, seq_pure]

theorem checkSymbol_of_not_lt {m : ModelId} {sym : Nat} (h : ¬ sym < numSymbols m) (s : State) :
    checkSymbol m sym s = .error (.raise .modelSymbolRange) s := by
  simp only [checkSymbol, seq_ite, h, if_false, raise_apply]

theorem modelInitOp_apply (m : ModelId) (s : State) :
    modelInitOp m s = .ok () { s with models := s.models.set m.val (initialModel s.par m) } := rfl

theorem modelRescaleOp_apply (m : ModelId) (s : State) :
    modelRescaleOp m s =
      .ok () { s with
        models := s.models.set m.val
          (rescaled (s.models.getD m.val { totFreq := 0#32, freq := [] })) } := rfl

theorem modelUpdateOp_of_lt {m : ModelId} {sym : Nat} (h : sym < numSymbols m) (s : State) :
    modelUpdateOp m sym s =
      .ok () { s with
        models := s.models.set m.val
          (updatedModel s.par m (s.models.getD m.val { totFreq := 0#32, freq := [] }) sym) } := by
  simp only [modelUpdateOp, seq_bind, checkSymbol_of_lt h, seq_get, readModel_apply,
    writeModel_apply]

theorem initAllModels_apply (s : State) :
    initAllModels s = .ok () { s with models := initialModels s.par } := rfl

/-! ## Coder -/

theorem encInitOp_apply (s : State) :
    encInitOp s = .ok () { s with l := 0#32, r := half, bo := 0#32 } := rfl

theorem bitPlusFollowOp_apply (b : Bool) (s : State) :
    bitPlusFollowOp b s =
      .ok () { s with bitOut := s.bitOut ++ b :: List.replicate s.bo.toNat (!b), bo := 0#32 } := rfl

theorem encShiftOp_apply (s : State) :
    encShiftOp s = .ok () { s with l := s.l <<< 1, r := s.r <<< 1 } := rfl

/-- Case (a) of R159. -/
theorem encDecideOp_lower {s : State} (h : s.l + s.r ≤ half) :
    encDecideOp s = bitPlusFollowOp false s := by
  simp only [encDecideOp, seq_bind, seq_get, h, if_true]

/-- Case (b) of R159. -/
theorem encDecideOp_upper {s : State} (h1 : ¬ s.l + s.r ≤ half) (h2 : half ≤ s.l) :
    encDecideOp s = bitPlusFollowOp true { s with l := s.l - half } := by
  simp only [encDecideOp, seq_bind, seq_get, h1, h2, if_true, if_false, seq_set]

/-- Case (c) of R159, with the check of R160. -/
theorem encDecideOp_middle {s : State} (h1 : ¬ s.l + s.r ≤ half) (h2 : ¬ half ≤ s.l) :
    encDecideOp s =
      if boLimit < s.bo + 1#32 then
        .error (.raise .bitsRunaway) { s with l := s.l - quarter, bo := s.bo + 1#32 }
      else .ok () { s with l := s.l - quarter, bo := s.bo + 1#32 } := by
  simp only [encDecideOp, seq_bind, seq_get, h1, h2, if_false, seq_set, seq_ite, raise_apply,
    seq_pure]

theorem encNarrowOp_of_ne_zero {fm : FreqModel} (h : fm.totFreq ≠ 0#32) (sym : Nat) (s : State) :
    encNarrowOp fm sym s =
      .ok () { s with
        l := s.l + s.r / fm.totFreq * lowCum fm sym
        r := if lowCum fm sym + freqAt fm sym < fm.totFreq then
            s.r / fm.totFreq * freqAt fm sym
          else s.r - s.r / fm.totFreq * lowCum fm sym } := by
  simp only [encNarrowOp, h, if_false, seq_modify]

/-! ## The move-to-front list -/

theorem mtfInitOp_apply (s : State) : mtfInitOp s = .ok () { s with yy := initialList } := rfl

theorem mtfRankOp_of_mem {b : Byte} {s : State} (h : b ∈ s.yy) :
    mtfRankOp b s = .ok (s.yy.idxOf b) { s with yy := moveToFront s.yy (s.yy.idxOf b) b } := by
  simp only [mtfRankOp, seq_bind, seq_get, checkIndex_of_lt (List.idxOf_lt_length_of_mem h),
    seq_set, seq_pure]

theorem mtfTakeOp_of_lt {v : Nat} {s : State} (h : v < s.yy.length) :
    mtfTakeOp v s =
      .ok (s.yy.getD v 0#8) { s with yy := moveToFront s.yy v (s.yy.getD v 0#8) } := by
  simp only [mtfTakeOp, seq_bind, seq_get, checkIndex_of_lt h, seq_set, seq_pure]

/-- The front of the list after a move is the byte moved. -/
theorem moveToFront_getD_zero (yy : List Byte) (j : Nat) (b : Byte) :
    (moveToFront yy j b).getD 0 0#8 = b := rfl

/-! ## Appends and received items -/

theorem appendLl_of_lt {b : Byte} {s : State} (h : s.pos.toNat < capMax s.par) :
    appendLl b s =
      .ok () { s with ll := arrSet (w := 8) s.ll s.pos.toNat b, pos := s.pos + 1#32 } := by
  simp only [appendLl, seq_bind, seq_get, writeLl_of_lt h, seq_modify]

theorem appendBlock_of_lt {b : Byte} {s : State} (h : s.pos.toNat < blockSize s) :
    appendBlock b s =
      .ok () { s with block := arrSet (w := 8) s.block s.pos.toNat b, pos := s.pos + 1#32 } := by
  simp only [appendBlock, seq_bind, seq_get, writeBlock_of_lt h, seq_modify]

theorem origwordReceived_apply (w : Word) (s : State) :
    origwordReceived w s = .ok (origWordMag w) { s with finalBlock := origWordFinal w } := rfl

theorem crcReceived_apply (w : Word) (s : State) :
    crcReceived w s =
      if w ≠ ~~~ s.crc then .error (.raise .crcMismatch) s else .ok () s := by
  simp only [crcReceived, seq_bind, crcFinalOp_apply, seq_ite, raise_apply, seq_pure]

theorem checkOrigptrOp_apply (mag : Word) (s : State) :
    checkOrigptrOp mag s =
      if mag = 0#32 ∨ s.n ≤ mag - 1#32 then .error (.raise .badOrigptr) s
      else .ok () { s with origptr := mag - 1#32 } := by
  simp only [checkOrigptrOp, seq_bind, seq_get, seq_ite, raise_apply, seq_modify]

/-- An item of a run goes the way MODE says. -/
theorem sendOrReceive_apply (x y : Seq Unit) (s : State) :
    sendOrReceive x y s = if s.mode = .decompress then y s else x s := by
  simp only [sendOrReceive, seq_bind, seq_get, seq_ite]

end Sys2Proof.Machine
end

