-- ==== Sys2Proof/Laws/PerInstr.lean ====
section
/-! SUPPORT. The family `CodedUnlessOperation`: an instruction has a coded item exactly when its row of the
opcode table is not of the format SEQOP, whose rows "have names but no bit patterns" (30_encoding.md R108). -/

namespace Sys2Proof.Laws.CodedUnlessOperation

/-- Coded exactly when the row's format has a bit pattern (R108). -/
def Statement (i : Instr) : Prop := encode i = none ↔ formatOf i = .seqop

theorem nop : Statement (.nop) :=
  ⟨nofun, nofun⟩

theorem compress (lvl : BitVec 4) : Statement (.compress lvl) :=
  ⟨nofun, nofun⟩

theorem decompress : Statement (.decompress) :=
  ⟨nofun, nofun⟩

theorem abort : Statement (.abort) :=
  ⟨nofun, nofun⟩

theorem phaseIdle : Statement (.phaseIdle) :=
  ⟨nofun, nofun⟩

theorem phaseHeaderC : Statement (.phaseHeaderC) :=
  ⟨nofun, nofun⟩

theorem phaseLoadRle : Statement (.phaseLoadRle) :=
  ⟨nofun, nofun⟩

theorem phaseSpot : Statement (.phaseSpot) :=
  ⟨nofun, nofun⟩

theorem phaseSort : Statement (.phaseSort) :=
  ⟨nofun, nofun⟩

theorem phaseEncode : Statement (.phaseEncode) :=
  ⟨nofun, nofun⟩

theorem phaseTrailerC : Statement (.phaseTrailerC) :=
  ⟨nofun, nofun⟩

theorem phaseHeaderD : Statement (.phaseHeaderD) :=
  ⟨nofun, nofun⟩

theorem phaseDecode : Statement (.phaseDecode) :=
  ⟨nofun, nofun⟩

theorem phaseInvertSort : Statement (.phaseInvertSort) :=
  ⟨nofun, nofun⟩

theorem phaseUnspot : Statement (.phaseUnspot) :=
  ⟨nofun, nofun⟩

theorem phaseUnrle : Statement (.phaseUnrle) :=
  ⟨nofun, nofun⟩

theorem phaseTrailerD : Statement (.phaseTrailerD) :=
  ⟨nofun, nofun⟩

theorem faultBadMagic : Statement (.faultBadMagic) :=
  ⟨nofun, nofun⟩

theorem faultTruncated : Statement (.faultTruncated) :=
  ⟨nofun, nofun⟩

theorem faultBlockOverrun : Statement (.faultBlockOverrun) :=
  ⟨nofun, nofun⟩

theorem faultBadSentinel : Statement (.faultBadSentinel) :=
  ⟨nofun, nofun⟩

theorem faultCrcMismatch : Statement (.faultCrcMismatch) :=
  ⟨nofun, nofun⟩

theorem faultBadOrigptr : Statement (.faultBadOrigptr) :=
  ⟨nofun, nofun⟩

theorem faultBadRle1 : Statement (.faultBadRle1) :=
  ⟨nofun, nofun⟩

theorem faultResource : Statement (.faultResource) :=
  ⟨nofun, nofun⟩

theorem faultModelSymbolRange : Statement (.faultModelSymbolRange) :=
  ⟨nofun, nofun⟩

theorem faultBitsRunaway : Statement (.faultBitsRunaway) :=
  ⟨nofun, nofun⟩

theorem faultOrigptrNotFound : Statement (.faultOrigptrNotFound) :=
  ⟨nofun, nofun⟩

theorem faultIllegalCmd : Statement (.faultIllegalCmd) :=
  ⟨nofun, nofun⟩

theorem basisRuna : Statement (.basisRuna) :=
  ⟨nofun, nofun⟩

theorem basisRunb : Statement (.basisRunb) :=
  ⟨nofun, nofun⟩

theorem basisOne : Statement (.basisOne) :=
  ⟨nofun, nofun⟩

theorem basis2To3 : Statement (.basis2To3) :=
  ⟨nofun, nofun⟩

theorem basis4To7 : Statement (.basis4To7) :=
  ⟨nofun, nofun⟩

theorem basis8To15 : Statement (.basis8To15) :=
  ⟨nofun, nofun⟩

theorem basis16To31 : Statement (.basis16To31) :=
  ⟨nofun, nofun⟩

theorem basis32To63 : Statement (.basis32To63) :=
  ⟨nofun, nofun⟩

theorem basis64To127 : Statement (.basis64To127) :=
  ⟨nofun, nofun⟩

theorem basis128To255 : Statement (.basis128To255) :=
  ⟨nofun, nofun⟩

theorem basisEob : Statement (.basisEob) :=
  ⟨nofun, nofun⟩

theorem streamMagic (lvl : BitVec 4) : Statement (.streamMagic lvl) :=
  ⟨nofun, nofun⟩

theorem streamOrigword (w : Word) : Statement (.streamOrigword w) :=
  ⟨nofun, nofun⟩

theorem streamCrc32 (w : Word) : Statement (.streamCrc32 w) :=
  ⟨nofun, nofun⟩

theorem rle1Short (c : Byte) (r : BitVec 2) : Statement (.rle1Short c r) :=
  ⟨nofun, nofun⟩

theorem rle1Long (c : Byte) (count : Byte) : Statement (.rle1Long c count) :=
  ⟨nofun, nofun⟩

theorem rle1Sentinel : Statement (.rle1Sentinel) :=
  ⟨nofun, nofun⟩

theorem crcInit : Statement (.crcInit) :=
  ⟨fun _ => rfl, fun _ => rfl⟩

theorem crcUpdate (b : Byte) : Statement (.crcUpdate b) :=
  ⟨fun _ => rfl, fun _ => rfl⟩

theorem crcFinal : Statement (.crcFinal) :=
  ⟨fun _ => rfl, fun _ => rfl⟩

theorem modelInit (m : ModelId) : Statement (.modelInit m) :=
  ⟨fun _ => rfl, fun _ => rfl⟩

theorem modelUpdate (m : ModelId) (sym : Nat) : Statement (.modelUpdate m sym) :=
  ⟨fun _ => rfl, fun _ => rfl⟩

theorem modelRescale (m : ModelId) : Statement (.modelRescale m) :=
  ⟨fun _ => rfl, fun _ => rfl⟩

theorem acEncInit : Statement (.acEncInit) :=
  ⟨fun _ => rfl, fun _ => rfl⟩

theorem acEncode (m : ModelId) (sym : Nat) : Statement (.acEncode m sym) :=
  ⟨fun _ => rfl, fun _ => rfl⟩

theorem acBitPlusFollow (b : Bool) : Statement (.acBitPlusFollow b) :=
  ⟨fun _ => rfl, fun _ => rfl⟩

theorem acEncRenorm : Statement (.acEncRenorm) :=
  ⟨fun _ => rfl, fun _ => rfl⟩

theorem acEncFlush : Statement (.acEncFlush) :=
  ⟨fun _ => rfl, fun _ => rfl⟩

theorem acDecStart : Statement (.acDecStart) :=
  ⟨fun _ => rfl, fun _ => rfl⟩

theorem acDecode (m : ModelId) : Statement (.acDecode m) :=
  ⟨fun _ => rfl, fun _ => rfl⟩

theorem acPutU8 (b : Byte) : Statement (.acPutU8 b) :=
  ⟨fun _ => rfl, fun _ => rfl⟩

theorem acPutU32 (w : Word) : Statement (.acPutU32 w) :=
  ⟨fun _ => rfl, fun _ => rfl⟩

theorem acGetU8 : Statement (.acGetU8) :=
  ⟨fun _ => rfl, fun _ => rfl⟩

theorem acGetU32 : Statement (.acGetU32) :=
  ⟨fun _ => rfl, fun _ => rfl⟩

theorem mtfInit : Statement (.mtfInit) :=
  ⟨fun _ => rfl, fun _ => rfl⟩

theorem mtfRank (b : Byte) : Statement (.mtfRank b) :=
  ⟨fun _ => rfl, fun _ => rfl⟩

theorem mtfTake (v : Byte) : Statement (.mtfTake v) :=
  ⟨fun _ => rfl, fun _ => rfl⟩

theorem mtfSendZeroes (k : Word) : Statement (.mtfSendZeroes k) :=
  ⟨fun _ => rfl, fun _ => rfl⟩

theorem mtfSendVal (v : Byte) : Statement (.mtfSendVal v) :=
  ⟨fun _ => rfl, fun _ => rfl⟩

theorem mtfSendEob : Statement (.mtfSendEob) :=
  ⟨fun _ => rfl, fun _ => rfl⟩

theorem mtfEncodeBlock : Statement (.mtfEncodeBlock) :=
  ⟨fun _ => rfl, fun _ => rfl⟩

theorem mtfDecodeBlock : Statement (.mtfDecodeBlock) :=
  ⟨fun _ => rfl, fun _ => rfl⟩

theorem mtfAbsorb (d : RunDigit) : Statement (.mtfAbsorb d) :=
  ⟨fun _ => rfl, fun _ => rfl⟩

theorem mtfCheckOrigptr (mag : Word) : Statement (.mtfCheckOrigptr mag) :=
  ⟨fun _ => rfl, fun _ => rfl⟩

theorem bwtSort : Statement (.bwtSort) :=
  ⟨fun _ => rfl, fun _ => rfl⟩

theorem bwtBuildPad : Statement (.bwtBuildPad) :=
  ⟨fun _ => rfl, fun _ => rfl⟩

theorem bwtSmallSort : Statement (.bwtSmallSort) :=
  ⟨fun _ => rfl, fun _ => rfl⟩

theorem bwtTrivialGt (a b : Word) : Statement (.bwtTrivialGt a b) :=
  ⟨fun _ => rfl, fun _ => rfl⟩

theorem bwtFullGt (a b : Word) : Statement (.bwtFullGt a b) :=
  ⟨fun _ => rfl, fun _ => rfl⟩

theorem bwtBucketSort : Statement (.bwtBucketSort) :=
  ⟨fun _ => rfl, fun _ => rfl⟩

theorem bwtQsort (lo hi : Word) : Statement (.bwtQsort lo hi) :=
  ⟨fun _ => rfl, fun _ => rfl⟩

theorem bwtMedian3 (a b c : Word) : Statement (.bwtMedian3 a b c) :=
  ⟨fun _ => rfl, fun _ => rfl⟩

theorem bwtPartition (lo hi p : Word) : Statement (.bwtPartition lo hi p) :=
  ⟨fun _ => rfl, fun _ => rfl⟩

theorem bwtInsertion (lo hi : Word) : Statement (.bwtInsertion lo hi) :=
  ⟨fun _ => rfl, fun _ => rfl⟩

theorem bwtFindOrigptr : Statement (.bwtFindOrigptr) :=
  ⟨fun _ => rfl, fun _ => rfl⟩

theorem bwtInverse : Statement (.bwtInverse) :=
  ⟨fun _ => rfl, fun _ => rfl⟩

theorem rle1Load : Statement (.rle1Load) :=
  ⟨fun _ => rfl, fun _ => rfl⟩

theorem rle1Unload : Statement (.rle1Unload) :=
  ⟨fun _ => rfl, fun _ => rfl⟩

theorem spotApply (delta : SpotDelta) : Statement (.spotApply delta) :=
  ⟨fun _ => rfl, fun _ => rfl⟩

theorem faultEntry (f : FaultCode) : Statement (.faultEntry f) :=
  ⟨fun _ => rfl, fun _ => rfl⟩

theorem runEnd : Statement (.runEnd) :=
  ⟨fun _ => rfl, fun _ => rfl⟩

theorem phaseNext : Statement (.phaseNext) :=
  ⟨fun _ => rfl, fun _ => rfl⟩

end Sys2Proof.Laws.CodedUnlessOperation
end

