-- ==== Sys2Proof/Laws/State.lean ====
section
/-! SUPPORT. One lemma per field per update of the state, each true by unfolding the update once: taking a
fault, ending a run, the phase transition, the accepted commands, FEED and the return to the reset values. -/

namespace Sys2Proof.Machine

/-! ## `takeFault` (R352) -/

@[simp] theorem takeFault_busy (f : FaultCode) (s : State) : (takeFault f s).busy = false := rfl
@[simp] theorem takeFault_done (f : FaultCode) (s : State) : (takeFault f s).done = false := rfl
@[simp] theorem takeFault_fault (f : FaultCode) (s : State) : (takeFault f s).fault = true := rfl
@[simp] theorem takeFault_finalBlock (f : FaultCode) (s : State) : (takeFault f s).finalBlock = s.finalBlock := rfl
@[simp] theorem takeFault_mode (f : FaultCode) (s : State) : (takeFault f s).mode = s.mode := rfl
@[simp] theorem takeFault_phase (f : FaultCode) (s : State) : (takeFault f s).phase = s.phase := rfl
@[simp] theorem takeFault_err (f : FaultCode) (s : State) : (takeFault f s).err = faultCodeBits f := rfl
@[simp] theorem takeFault_level (f : FaultCode) (s : State) : (takeFault f s).level = s.level := rfl
@[simp] theorem takeFault_crc (f : FaultCode) (s : State) : (takeFault f s).crc = s.crc := rfl
@[simp] theorem takeFault_n (f : FaultCode) (s : State) : (takeFault f s).n = s.n := rfl
@[simp] theorem takeFault_origptr (f : FaultCode) (s : State) : (takeFault f s).origptr = s.origptr := rfl
@[simp] theorem takeFault_l (f : FaultCode) (s : State) : (takeFault f s).l = s.l := rfl
@[simp] theorem takeFault_r (f : FaultCode) (s : State) : (takeFault f s).r = s.r := rfl
@[simp] theorem takeFault_bo (f : FaultCode) (s : State) : (takeFault f s).bo = s.bo := rfl
@[simp] theorem takeFault_d (f : FaultCode) (s : State) : (takeFault f s).d = s.d := rfl
@[simp] theorem takeFault_laValid (f : FaultCode) (s : State) : (takeFault f s).laValid = s.laValid := rfl
@[simp] theorem takeFault_laByte (f : FaultCode) (s : State) : (takeFault f s).laByte = s.laByte := rfl
@[simp] theorem takeFault_srcEod (f : FaultCode) (s : State) : (takeFault f s).srcEod = s.srcEod := rfl
@[simp] theorem takeFault_zp (f : FaultCode) (s : State) : (takeFault f s).zp = s.zp := rfl
@[simp] theorem takeFault_runacc (f : FaultCode) (s : State) : (takeFault f s).runacc = s.runacc := rfl
@[simp] theorem takeFault_runw (f : FaultCode) (s : State) : (takeFault f s).runw = s.runw := rfl
@[simp] theorem takeFault_spos (f : FaultCode) (s : State) : (takeFault f s).spos = s.spos := rfl
@[simp] theorem takeFault_sidx (f : FaultCode) (s : State) : (takeFault f s).sidx = s.sidx := rfl
@[simp] theorem takeFault_models (f : FaultCode) (s : State) : (takeFault f s).models = s.models := rfl
@[simp] theorem takeFault_yy (f : FaultCode) (s : State) : (takeFault f s).yy = s.yy := rfl
@[simp] theorem takeFault_block (f : FaultCode) (s : State) : (takeFault f s).block = s.block := rfl
@[simp] theorem takeFault_zptr (f : FaultCode) (s : State) : (takeFault f s).zptr = s.zptr := rfl
@[simp] theorem takeFault_ll (f : FaultCode) (s : State) : (takeFault f s).ll = s.ll := rfl
@[simp] theorem takeFault_nextIdx (f : FaultCode) (s : State) : (takeFault f s).nextIdx = s.nextIdx := rfl
@[simp] theorem takeFault_ftab (f : FaultCode) (s : State) : (takeFault f s).ftab = s.ftab := rfl
@[simp] theorem takeFault_cc (f : FaultCode) (s : State) : (takeFault f s).cc = s.cc := rfl
@[simp] theorem takeFault_qstack (f : FaultCode) (s : State) : (takeFault f s).qstack = s.qstack := rfl
@[simp] theorem takeFault_pos (f : FaultCode) (s : State) : (takeFault f s).pos = s.pos := rfl
@[simp] theorem takeFault_byteIn (f : FaultCode) (s : State) : (takeFault f s).byteIn = s.byteIn := rfl
@[simp] theorem takeFault_byteInEod (f : FaultCode) (s : State) : (takeFault f s).byteInEod = s.byteInEod := rfl
@[simp] theorem takeFault_byteInGiven (f : FaultCode) (s : State) : (takeFault f s).byteInGiven = s.byteInGiven := rfl
@[simp] theorem takeFault_byteInLater (f : FaultCode) (s : State) : (takeFault f s).byteInLater = s.byteInLater := rfl
@[simp] theorem takeFault_bitIn (f : FaultCode) (s : State) : (takeFault f s).bitIn = s.bitIn := rfl
@[simp] theorem takeFault_bitInEod (f : FaultCode) (s : State) : (takeFault f s).bitInEod = s.bitInEod := rfl
@[simp] theorem takeFault_bitInGiven (f : FaultCode) (s : State) : (takeFault f s).bitInGiven = s.bitInGiven := rfl
@[simp] theorem takeFault_bitInLater (f : FaultCode) (s : State) : (takeFault f s).bitInLater = s.bitInLater := rfl
@[simp] theorem takeFault_bitOut (f : FaultCode) (s : State) : (takeFault f s).bitOut = s.bitOut := rfl
@[simp] theorem takeFault_byteOut (f : FaultCode) (s : State) : (takeFault f s).byteOut = s.byteOut := rfl
@[simp] theorem takeFault_host (f : FaultCode) (s : State) : (takeFault f s).host = s.host := rfl
@[simp] theorem takeFault_hostData (f : FaultCode) (s : State) : (takeFault f s).hostData = s.hostData := rfl
@[simp] theorem takeFault_latch (f : FaultCode) (s : State) : (takeFault f s).latch = s.latch := rfl
@[simp] theorem takeFault_result (f : FaultCode) (s : State) : (takeFault f s).result = s.result := rfl
@[simp] theorem takeFault_freeCount (f : FaultCode) (s : State) : (takeFault f s).freeCount = s.freeCount := rfl
@[simp] theorem takeFault_par (f : FaultCode) (s : State) : (takeFault f s).par = s.par := rfl

/-! ## `endRun` (R335) -/

@[simp] theorem endRun_busy (s : State) : (endRun s).busy = false := rfl
@[simp] theorem endRun_done (s : State) : (endRun s).done = true := rfl
@[simp] theorem endRun_fault (s : State) : (endRun s).fault = s.fault := rfl
@[simp] theorem endRun_finalBlock (s : State) : (endRun s).finalBlock = s.finalBlock := rfl
@[simp] theorem endRun_mode (s : State) : (endRun s).mode = s.mode := rfl
@[simp] theorem endRun_phase (s : State) : (endRun s).phase = .idle := rfl
@[simp] theorem endRun_err (s : State) : (endRun s).err = s.err := rfl
@[simp] theorem endRun_level (s : State) : (endRun s).level = s.level := rfl
@[simp] theorem endRun_crc (s : State) : (endRun s).crc = s.crc := rfl
@[simp] theorem endRun_n (s : State) : (endRun s).n = s.n := rfl
@[simp] theorem endRun_origptr (s : State) : (endRun s).origptr = s.origptr := rfl
@[simp] theorem endRun_l (s : State) : (endRun s).l = s.l := rfl
@[simp] theorem endRun_r (s : State) : (endRun s).r = s.r := rfl
@[simp] theorem endRun_bo (s : State) : (endRun s).bo = s.bo := rfl
@[simp] theorem endRun_d (s : State) : (endRun s).d = s.d := rfl
@[simp] theorem endRun_laValid (s : State) : (endRun s).laValid = s.laValid := rfl
@[simp] theorem endRun_laByte (s : State) : (endRun s).laByte = s.laByte := rfl
@[simp] theorem endRun_srcEod (s : State) : (endRun s).srcEod = s.srcEod := rfl
@[simp] theorem endRun_zp (s : State) : (endRun s).zp = s.zp := rfl
@[simp] theorem endRun_runacc (s : State) : (endRun s).runacc = s.runacc := rfl
@[simp] theorem endRun_runw (s : State) : (endRun s).runw = s.runw := rfl
@[simp] theorem endRun_spos (s : State) : (endRun s).spos = s.spos := rfl
@[simp] theorem endRun_sidx (s : State) : (endRun s).sidx = s.sidx := rfl
@[simp] theorem endRun_models (s : State) : (endRun s).models = s.models := rfl
@[simp] theorem endRun_yy (s : State) : (endRun s).yy = s.yy := rfl
@[simp] theorem endRun_block (s : State) : (endRun s).block = s.block := rfl
@[simp] theorem endRun_zptr (s : State) : (endRun s).zptr = s.zptr := rfl
@[simp] theorem endRun_ll (s : State) : (endRun s).ll = s.ll := rfl
@[simp] theorem endRun_nextIdx (s : State) : (endRun s).nextIdx = s.nextIdx := rfl
@[simp] theorem endRun_ftab (s : State) : (endRun s).ftab = s.ftab := rfl
@[simp] theorem endRun_cc (s : State) : (endRun s).cc = s.cc := rfl
@[simp] theorem endRun_qstack (s : State) : (endRun s).qstack = s.qstack := rfl
@[simp] theorem endRun_pos (s : State) : (endRun s).pos = s.pos := rfl
@[simp] theorem endRun_byteIn (s : State) : (endRun s).byteIn = s.byteIn := rfl
@[simp] theorem endRun_byteInEod (s : State) : (endRun s).byteInEod = s.byteInEod := rfl
@[simp] theorem endRun_byteInGiven (s : State) : (endRun s).byteInGiven = s.byteInGiven := rfl
@[simp] theorem endRun_byteInLater (s : State) : (endRun s).byteInLater = s.byteInLater := rfl
@[simp] theorem endRun_bitIn (s : State) : (endRun s).bitIn = s.bitIn := rfl
@[simp] theorem endRun_bitInEod (s : State) : (endRun s).bitInEod = s.bitInEod := rfl
@[simp] theorem endRun_bitInGiven (s : State) : (endRun s).bitInGiven = s.bitInGiven := rfl
@[simp] theorem endRun_bitInLater (s : State) : (endRun s).bitInLater = s.bitInLater := rfl
@[simp] theorem endRun_bitOut (s : State) : (endRun s).bitOut = s.bitOut := rfl
@[simp] theorem endRun_byteOut (s : State) : (endRun s).byteOut = s.byteOut := rfl
@[simp] theorem endRun_host (s : State) : (endRun s).host = s.host := rfl
@[simp] theorem endRun_hostData (s : State) : (endRun s).hostData = s.hostData := rfl
@[simp] theorem endRun_latch (s : State) : (endRun s).latch = s.latch := rfl
@[simp] theorem endRun_result (s : State) : (endRun s).result = s.result := rfl
@[simp] theorem endRun_freeCount (s : State) : (endRun s).freeCount = s.freeCount := rfl
@[simp] theorem endRun_par (s : State) : (endRun s).par = s.par := rfl

/-! ## `nextPhase` (R300): every field but BUSY, DONE and PHASE -/

@[simp] theorem nextPhase_fault (s : State) : (nextPhase s).fault = s.fault := by
  unfold nextPhase; cases s.phase <;> rfl
@[simp] theorem nextPhase_finalBlock (s : State) : (nextPhase s).finalBlock = s.finalBlock := by
  unfold nextPhase; cases s.phase <;> rfl
@[simp] theorem nextPhase_mode (s : State) : (nextPhase s).mode = s.mode := by
  unfold nextPhase; cases s.phase <;> rfl
@[simp] theorem nextPhase_err (s : State) : (nextPhase s).err = s.err := by
  unfold nextPhase; cases s.phase <;> rfl
@[simp] theorem nextPhase_level (s : State) : (nextPhase s).level = s.level := by
  unfold nextPhase; cases s.phase <;> rfl
@[simp] theorem nextPhase_crc (s : State) : (nextPhase s).crc = s.crc := by
  unfold nextPhase; cases s.phase <;> rfl
@[simp] theorem nextPhase_n (s : State) : (nextPhase s).n = s.n := by
  unfold nextPhase; cases s.phase <;> rfl
@[simp] theorem nextPhase_origptr (s : State) : (nextPhase s).origptr = s.origptr := by
  unfold nextPhase; cases s.phase <;> rfl
@[simp] theorem nextPhase_l (s : State) : (nextPhase s).l = s.l := by
  unfold nextPhase; cases s.phase <;> rfl
@[simp] theorem nextPhase_r (s : State) : (nextPhase s).r = s.r := by
  unfold nextPhase; cases s.phase <;> rfl
@[simp] theorem nextPhase_bo (s : State) : (nextPhase s).bo = s.bo := by
  unfold nextPhase; cases s.phase <;> rfl
@[simp] theorem nextPhase_d (s : State) : (nextPhase s).d = s.d := by
  unfold nextPhase; cases s.phase <;> rfl
@[simp] theorem nextPhase_laValid (s : State) : (nextPhase s).laValid = s.laValid := by
  unfold nextPhase; cases s.phase <;> rfl
@[simp] theorem nextPhase_laByte (s : State) : (nextPhase s).laByte = s.laByte := by
  unfold nextPhase; cases s.phase <;> rfl
@[simp] theorem nextPhase_srcEod (s : State) : (nextPhase s).srcEod = s.srcEod := by
  unfold nextPhase; cases s.phase <;> rfl
@[simp] theorem nextPhase_zp (s : State) : (nextPhase s).zp = s.zp := by
  unfold nextPhase; cases s.phase <;> rfl
@[simp] theorem nextPhase_runacc (s : State) : (nextPhase s).runacc = s.runacc := by
  unfold nextPhase; cases s.phase <;> rfl
@[simp] theorem nextPhase_runw (s : State) : (nextPhase s).runw = s.runw := by
  unfold nextPhase; cases s.phase <;> rfl
@[simp] theorem nextPhase_spos (s : State) : (nextPhase s).spos = s.spos := by
  unfold nextPhase; cases s.phase <;> rfl
@[simp] theorem nextPhase_sidx (s : State) : (nextPhase s).sidx = s.sidx := by
  unfold nextPhase; cases s.phase <;> rfl
@[simp] theorem nextPhase_models (s : State) : (nextPhase s).models = s.models := by
  unfold nextPhase; cases s.phase <;> rfl
@[simp] theorem nextPhase_yy (s : State) : (nextPhase s).yy = s.yy := by
  unfold nextPhase; cases s.phase <;> rfl
@[simp] theorem nextPhase_block (s : State) : (nextPhase s).block = s.block := by
  unfold nextPhase; cases s.phase <;> rfl
@[simp] theorem nextPhase_zptr (s : State) : (nextPhase s).zptr = s.zptr := by
  unfold nextPhase; cases s.phase <;> rfl
@[simp] theorem nextPhase_ll (s : State) : (nextPhase s).ll = s.ll := by
  unfold nextPhase; cases s.phase <;> rfl
@[simp] theorem nextPhase_nextIdx (s : State) : (nextPhase s).nextIdx = s.nextIdx := by
  unfold nextPhase; cases s.phase <;> rfl
@[simp] theorem nextPhase_ftab (s : State) : (nextPhase s).ftab = s.ftab := by
  unfold nextPhase; cases s.phase <;> rfl
@[simp] theorem nextPhase_cc (s : State) : (nextPhase s).cc = s.cc := by
  unfold nextPhase; cases s.phase <;> rfl
@[simp] theorem nextPhase_qstack (s : State) : (nextPhase s).qstack = s.qstack := by
  unfold nextPhase; cases s.phase <;> rfl
@[simp] theorem nextPhase_pos (s : State) : (nextPhase s).pos = s.pos := by
  unfold nextPhase; cases s.phase <;> rfl
@[simp] theorem nextPhase_byteIn (s : State) : (nextPhase s).byteIn = s.byteIn := by
  unfold nextPhase; cases s.phase <;> rfl
@[simp] theorem nextPhase_byteInEod (s : State) : (nextPhase s).byteInEod = s.byteInEod := by
  unfold nextPhase; cases s.phase <;> rfl
@[simp] theorem nextPhase_byteInGiven (s : State) : (nextPhase s).byteInGiven = s.byteInGiven := by
  unfold nextPhase; cases s.phase <;> rfl
@[simp] theorem nextPhase_byteInLater (s : State) : (nextPhase s).byteInLater = s.byteInLater := by
  unfold nextPhase; cases s.phase <;> rfl
@[simp] theorem nextPhase_bitIn (s : State) : (nextPhase s).bitIn = s.bitIn := by
  unfold nextPhase; cases s.phase <;> rfl
@[simp] theorem nextPhase_bitInEod (s : State) : (nextPhase s).bitInEod = s.bitInEod := by
  unfold nextPhase; cases s.phase <;> rfl
@[simp] theorem nextPhase_bitInGiven (s : State) : (nextPhase s).bitInGiven = s.bitInGiven := by
  unfold nextPhase; cases s.phase <;> rfl
@[simp] theorem nextPhase_bitInLater (s : State) : (nextPhase s).bitInLater = s.bitInLater := by
  unfold nextPhase; cases s.phase <;> rfl
@[simp] theorem nextPhase_bitOut (s : State) : (nextPhase s).bitOut = s.bitOut := by
  unfold nextPhase; cases s.phase <;> rfl
@[simp] theorem nextPhase_byteOut (s : State) : (nextPhase s).byteOut = s.byteOut := by
  unfold nextPhase; cases s.phase <;> rfl
@[simp] theorem nextPhase_host (s : State) : (nextPhase s).host = s.host := by
  unfold nextPhase; cases s.phase <;> rfl
@[simp] theorem nextPhase_hostData (s : State) : (nextPhase s).hostData = s.hostData := by
  unfold nextPhase; cases s.phase <;> rfl
@[simp] theorem nextPhase_latch (s : State) : (nextPhase s).latch = s.latch := by
  unfold nextPhase; cases s.phase <;> rfl
@[simp] theorem nextPhase_result (s : State) : (nextPhase s).result = s.result := by
  unfold nextPhase; cases s.phase <;> rfl
@[simp] theorem nextPhase_freeCount (s : State) : (nextPhase s).freeCount = s.freeCount := by
  unfold nextPhase; cases s.phase <;> rfl
@[simp] theorem nextPhase_par (s : State) : (nextPhase s).par = s.par := by
  unfold nextPhase; cases s.phase <;> rfl

/-! ## `acceptCompress` (R292) -/

@[simp] theorem acceptCompress_busy (lvl : BitVec 4) (s : State) : (acceptCompress lvl s).busy = true := rfl
@[simp] theorem acceptCompress_done (lvl : BitVec 4) (s : State) : (acceptCompress lvl s).done = false := rfl
@[simp] theorem acceptCompress_fault (lvl : BitVec 4) (s : State) : (acceptCompress lvl s).fault = s.fault := rfl
@[simp] theorem acceptCompress_finalBlock (lvl : BitVec 4) (s : State) : (acceptCompress lvl s).finalBlock = false := rfl
@[simp] theorem acceptCompress_mode (lvl : BitVec 4) (s : State) : (acceptCompress lvl s).mode = .compress := rfl
@[simp] theorem acceptCompress_phase (lvl : BitVec 4) (s : State) : (acceptCompress lvl s).phase = .headerC := rfl
@[simp] theorem acceptCompress_err (lvl : BitVec 4) (s : State) : (acceptCompress lvl s).err = s.err := rfl
@[simp] theorem acceptCompress_level (lvl : BitVec 4) (s : State) : (acceptCompress lvl s).level = lvl := rfl
@[simp] theorem acceptCompress_crc (lvl : BitVec 4) (s : State) : (acceptCompress lvl s).crc = s.crc := rfl
@[simp] theorem acceptCompress_n (lvl : BitVec 4) (s : State) : (acceptCompress lvl s).n = s.n := rfl
@[simp] theorem acceptCompress_origptr (lvl : BitVec 4) (s : State) : (acceptCompress lvl s).origptr = s.origptr := rfl
@[simp] theorem acceptCompress_l (lvl : BitVec 4) (s : State) : (acceptCompress lvl s).l = s.l := rfl
@[simp] theorem acceptCompress_r (lvl : BitVec 4) (s : State) : (acceptCompress lvl s).r = s.r := rfl
@[simp] theorem acceptCompress_bo (lvl : BitVec 4) (s : State) : (acceptCompress lvl s).bo = s.bo := rfl
@[simp] theorem acceptCompress_d (lvl : BitVec 4) (s : State) : (acceptCompress lvl s).d = s.d := rfl
@[simp] theorem acceptCompress_laValid (lvl : BitVec 4) (s : State) : (acceptCompress lvl s).laValid = s.laValid := rfl
@[simp] theorem acceptCompress_laByte (lvl : BitVec 4) (s : State) : (acceptCompress lvl s).laByte = s.laByte := rfl
@[simp] theorem acceptCompress_srcEod (lvl : BitVec 4) (s : State) : (acceptCompress lvl s).srcEod = s.srcEod := rfl
@[simp] theorem acceptCompress_zp (lvl : BitVec 4) (s : State) : (acceptCompress lvl s).zp = s.zp := rfl
@[simp] theorem acceptCompress_runacc (lvl : BitVec 4) (s : State) : (acceptCompress lvl s).runacc = s.runacc := rfl
@[simp] theorem acceptCompress_runw (lvl : BitVec 4) (s : State) : (acceptCompress lvl s).runw = s.runw := rfl
@[simp] theorem acceptCompress_spos (lvl : BitVec 4) (s : State) : (acceptCompress lvl s).spos = s.spos := rfl
@[simp] theorem acceptCompress_sidx (lvl : BitVec 4) (s : State) : (acceptCompress lvl s).sidx = s.sidx := rfl
@[simp] theorem acceptCompress_models (lvl : BitVec 4) (s : State) : (acceptCompress lvl s).models = s.models := rfl
@[simp] theorem acceptCompress_yy (lvl : BitVec 4) (s : State) : (acceptCompress lvl s).yy = s.yy := rfl
@[simp] theorem acceptCompress_block (lvl : BitVec 4) (s : State) : (acceptCompress lvl s).block = s.block := rfl
@[simp] theorem acceptCompress_zptr (lvl : BitVec 4) (s : State) : (acceptCompress lvl s).zptr = s.zptr := rfl
@[simp] theorem acceptCompress_ll (lvl : BitVec 4) (s : State) : (acceptCompress lvl s).ll = s.ll := rfl
@[simp] theorem acceptCompress_nextIdx (lvl : BitVec 4) (s : State) : (acceptCompress lvl s).nextIdx = s.nextIdx := rfl
@[simp] theorem acceptCompress_ftab (lvl : BitVec 4) (s : State) : (acceptCompress lvl s).ftab = s.ftab := rfl
@[simp] theorem acceptCompress_cc (lvl : BitVec 4) (s : State) : (acceptCompress lvl s).cc = s.cc := rfl
@[simp] theorem acceptCompress_qstack (lvl : BitVec 4) (s : State) : (acceptCompress lvl s).qstack = s.qstack := rfl
@[simp] theorem acceptCompress_pos (lvl : BitVec 4) (s : State) : (acceptCompress lvl s).pos = s.pos := rfl
@[simp] theorem acceptCompress_byteIn (lvl : BitVec 4) (s : State) : (acceptCompress lvl s).byteIn = if s.byteInGiven then (nextSupply s.byteInLater).1 else s.byteIn := rfl
@[simp] theorem acceptCompress_byteInEod (lvl : BitVec 4) (s : State) : (acceptCompress lvl s).byteInEod = if s.byteInGiven then (nextSupply s.byteInLater).2 else s.byteInEod := rfl
@[simp] theorem acceptCompress_byteInGiven (lvl : BitVec 4) (s : State) : (acceptCompress lvl s).byteInGiven = true := rfl
@[simp] theorem acceptCompress_byteInLater (lvl : BitVec 4) (s : State) : (acceptCompress lvl s).byteInLater = if s.byteInGiven then s.byteInLater.tail else s.byteInLater := rfl
@[simp] theorem acceptCompress_bitIn (lvl : BitVec 4) (s : State) : (acceptCompress lvl s).bitIn = s.bitIn := rfl
@[simp] theorem acceptCompress_bitInEod (lvl : BitVec 4) (s : State) : (acceptCompress lvl s).bitInEod = s.bitInEod := rfl
@[simp] theorem acceptCompress_bitInGiven (lvl : BitVec 4) (s : State) : (acceptCompress lvl s).bitInGiven = s.bitInGiven := rfl
@[simp] theorem acceptCompress_bitInLater (lvl : BitVec 4) (s : State) : (acceptCompress lvl s).bitInLater = s.bitInLater := rfl
@[simp] theorem acceptCompress_bitOut (lvl : BitVec 4) (s : State) : (acceptCompress lvl s).bitOut = s.bitOut := rfl
@[simp] theorem acceptCompress_byteOut (lvl : BitVec 4) (s : State) : (acceptCompress lvl s).byteOut = s.byteOut := rfl
@[simp] theorem acceptCompress_host (lvl : BitVec 4) (s : State) : (acceptCompress lvl s).host = s.host := rfl
@[simp] theorem acceptCompress_hostData (lvl : BitVec 4) (s : State) : (acceptCompress lvl s).hostData = s.hostData := rfl
@[simp] theorem acceptCompress_latch (lvl : BitVec 4) (s : State) : (acceptCompress lvl s).latch = s.latch := rfl
@[simp] theorem acceptCompress_result (lvl : BitVec 4) (s : State) : (acceptCompress lvl s).result = s.result := rfl
@[simp] theorem acceptCompress_freeCount (lvl : BitVec 4) (s : State) : (acceptCompress lvl s).freeCount = s.freeCount := rfl
@[simp] theorem acceptCompress_par (lvl : BitVec 4) (s : State) : (acceptCompress lvl s).par = s.par := rfl

/-! ## `acceptDecompress` (R293) -/

@[simp] theorem acceptDecompress_busy (s : State) : (acceptDecompress s).busy = true := rfl
@[simp] theorem acceptDecompress_done (s : State) : (acceptDecompress s).done = false := rfl
@[simp] theorem acceptDecompress_fault (s : State) : (acceptDecompress s).fault = s.fault := rfl
@[simp] theorem acceptDecompress_finalBlock (s : State) : (acceptDecompress s).finalBlock = false := rfl
@[simp] theorem acceptDecompress_mode (s : State) : (acceptDecompress s).mode = .decompress := rfl
@[simp] theorem acceptDecompress_phase (s : State) : (acceptDecompress s).phase = .headerD := rfl
@[simp] theorem acceptDecompress_err (s : State) : (acceptDecompress s).err = s.err := rfl
@[simp] theorem acceptDecompress_level (s : State) : (acceptDecompress s).level = 0#4 := rfl
@[simp] theorem acceptDecompress_crc (s : State) : (acceptDecompress s).crc = s.crc := rfl
@[simp] theorem acceptDecompress_n (s : State) : (acceptDecompress s).n = s.n := rfl
@[simp] theorem acceptDecompress_origptr (s : State) : (acceptDecompress s).origptr = s.origptr := rfl
@[simp] theorem acceptDecompress_l (s : State) : (acceptDecompress s).l = s.l := rfl
@[simp] theorem acceptDecompress_r (s : State) : (acceptDecompress s).r = s.r := rfl
@[simp] theorem acceptDecompress_bo (s : State) : (acceptDecompress s).bo = s.bo := rfl
@[simp] theorem acceptDecompress_d (s : State) : (acceptDecompress s).d = s.d := rfl
@[simp] theorem acceptDecompress_laValid (s : State) : (acceptDecompress s).laValid = s.laValid := rfl
@[simp] theorem acceptDecompress_laByte (s : State) : (acceptDecompress s).laByte = s.laByte := rfl
@[simp] theorem acceptDecompress_srcEod (s : State) : (acceptDecompress s).srcEod = s.srcEod := rfl
@[simp] theorem acceptDecompress_zp (s : State) : (acceptDecompress s).zp = s.zp := rfl
@[simp] theorem acceptDecompress_runacc (s : State) : (acceptDecompress s).runacc = s.runacc := rfl
@[simp] theorem acceptDecompress_runw (s : State) : (acceptDecompress s).runw = s.runw := rfl
@[simp] theorem acceptDecompress_spos (s : State) : (acceptDecompress s).spos = s.spos := rfl
@[simp] theorem acceptDecompress_sidx (s : State) : (acceptDecompress s).sidx = s.sidx := rfl
@[simp] theorem acceptDecompress_models (s : State) : (acceptDecompress s).models = s.models := rfl
@[simp] theorem acceptDecompress_yy (s : State) : (acceptDecompress s).yy = s.yy := rfl
@[simp] theorem acceptDecompress_block (s : State) : (acceptDecompress s).block = s.block := rfl
@[simp] theorem acceptDecompress_zptr (s : State) : (acceptDecompress s).zptr = s.zptr := rfl
@[simp] theorem acceptDecompress_ll (s : State) : (acceptDecompress s).ll = s.ll := rfl
@[simp] theorem acceptDecompress_nextIdx (s : State) : (acceptDecompress s).nextIdx = s.nextIdx := rfl
@[simp] theorem acceptDecompress_ftab (s : State) : (acceptDecompress s).ftab = s.ftab := rfl
@[simp] theorem acceptDecompress_cc (s : State) : (acceptDecompress s).cc = s.cc := rfl
@[simp] theorem acceptDecompress_qstack (s : State) : (acceptDecompress s).qstack = s.qstack := rfl
@[simp] theorem acceptDecompress_pos (s : State) : (acceptDecompress s).pos = s.pos := rfl
@[simp] theorem acceptDecompress_byteIn (s : State) : (acceptDecompress s).byteIn = s.byteIn := rfl
@[simp] theorem acceptDecompress_byteInEod (s : State) : (acceptDecompress s).byteInEod = s.byteInEod := rfl
@[simp] theorem acceptDecompress_byteInGiven (s : State) : (acceptDecompress s).byteInGiven = s.byteInGiven := rfl
@[simp] theorem acceptDecompress_byteInLater (s : State) : (acceptDecompress s).byteInLater = s.byteInLater := rfl
@[simp] theorem acceptDecompress_bitIn (s : State) : (acceptDecompress s).bitIn = if s.bitInGiven then (nextSupply s.bitInLater).1 else s.bitIn := rfl
@[simp] theorem acceptDecompress_bitInEod (s : State) : (acceptDecompress s).bitInEod = if s.bitInGiven then (nextSupply s.bitInLater).2 else s.bitInEod := rfl
@[simp] theorem acceptDecompress_bitInGiven (s : State) : (acceptDecompress s).bitInGiven = true := rfl
@[simp] theorem acceptDecompress_bitInLater (s : State) : (acceptDecompress s).bitInLater = if s.bitInGiven then s.bitInLater.tail else s.bitInLater := rfl
@[simp] theorem acceptDecompress_bitOut (s : State) : (acceptDecompress s).bitOut = s.bitOut := rfl
@[simp] theorem acceptDecompress_byteOut (s : State) : (acceptDecompress s).byteOut = s.byteOut := rfl
@[simp] theorem acceptDecompress_host (s : State) : (acceptDecompress s).host = s.host := rfl
@[simp] theorem acceptDecompress_hostData (s : State) : (acceptDecompress s).hostData = s.hostData := rfl
@[simp] theorem acceptDecompress_latch (s : State) : (acceptDecompress s).latch = s.latch := rfl
@[simp] theorem acceptDecompress_result (s : State) : (acceptDecompress s).result = s.result := rfl
@[simp] theorem acceptDecompress_freeCount (s : State) : (acceptDecompress s).freeCount = s.freeCount := rfl
@[simp] theorem acceptDecompress_par (s : State) : (acceptDecompress s).par = s.par := rfl

/-! ## `feedByteIn` and `feedBitIn` (R93, R297) -/

@[simp] theorem feedByteIn_busy (bytes : List Byte) (eod : Bool) (s : State) : (feedByteIn bytes eod s).busy = s.busy := rfl
@[simp] theorem feedByteIn_done (bytes : List Byte) (eod : Bool) (s : State) : (feedByteIn bytes eod s).done = s.done := rfl
@[simp] theorem feedByteIn_fault (bytes : List Byte) (eod : Bool) (s : State) : (feedByteIn bytes eod s).fault = s.fault := rfl
@[simp] theorem feedByteIn_finalBlock (bytes : List Byte) (eod : Bool) (s : State) : (feedByteIn bytes eod s).finalBlock = s.finalBlock := rfl
@[simp] theorem feedByteIn_mode (bytes : List Byte) (eod : Bool) (s : State) : (feedByteIn bytes eod s).mode = s.mode := rfl
@[simp] theorem feedByteIn_phase (bytes : List Byte) (eod : Bool) (s : State) : (feedByteIn bytes eod s).phase = s.phase := rfl
@[simp] theorem feedByteIn_err (bytes : List Byte) (eod : Bool) (s : State) : (feedByteIn bytes eod s).err = s.err := rfl
@[simp] theorem feedByteIn_level (bytes : List Byte) (eod : Bool) (s : State) : (feedByteIn bytes eod s).level = s.level := rfl
@[simp] theorem feedByteIn_crc (bytes : List Byte) (eod : Bool) (s : State) : (feedByteIn bytes eod s).crc = s.crc := rfl
@[simp] theorem feedByteIn_n (bytes : List Byte) (eod : Bool) (s : State) : (feedByteIn bytes eod s).n = s.n := rfl
@[simp] theorem feedByteIn_origptr (bytes : List Byte) (eod : Bool) (s : State) : (feedByteIn bytes eod s).origptr = s.origptr := rfl
@[simp] theorem feedByteIn_l (bytes : List Byte) (eod : Bool) (s : State) : (feedByteIn bytes eod s).l = s.l := rfl
@[simp] theorem feedByteIn_r (bytes : List Byte) (eod : Bool) (s : State) : (feedByteIn bytes eod s).r = s.r := rfl
@[simp] theorem feedByteIn_bo (bytes : List Byte) (eod : Bool) (s : State) : (feedByteIn bytes eod s).bo = s.bo := rfl
@[simp] theorem feedByteIn_d (bytes : List Byte) (eod : Bool) (s : State) : (feedByteIn bytes eod s).d = s.d := rfl
@[simp] theorem feedByteIn_laValid (bytes : List Byte) (eod : Bool) (s : State) : (feedByteIn bytes eod s).laValid = s.laValid := rfl
@[simp] theorem feedByteIn_laByte (bytes : List Byte) (eod : Bool) (s : State) : (feedByteIn bytes eod s).laByte = s.laByte := rfl
@[simp] theorem feedByteIn_srcEod (bytes : List Byte) (eod : Bool) (s : State) : (feedByteIn bytes eod s).srcEod = s.srcEod := rfl
@[simp] theorem feedByteIn_zp (bytes : List Byte) (eod : Bool) (s : State) : (feedByteIn bytes eod s).zp = s.zp := rfl
@[simp] theorem feedByteIn_runacc (bytes : List Byte) (eod : Bool) (s : State) : (feedByteIn bytes eod s).runacc = s.runacc := rfl
@[simp] theorem feedByteIn_runw (bytes : List Byte) (eod : Bool) (s : State) : (feedByteIn bytes eod s).runw = s.runw := rfl
@[simp] theorem feedByteIn_spos (bytes : List Byte) (eod : Bool) (s : State) : (feedByteIn bytes eod s).spos = s.spos := rfl
@[simp] theorem feedByteIn_sidx (bytes : List Byte) (eod : Bool) (s : State) : (feedByteIn bytes eod s).sidx = s.sidx := rfl
@[simp] theorem feedByteIn_models (bytes : List Byte) (eod : Bool) (s : State) : (feedByteIn bytes eod s).models = s.models := rfl
@[simp] theorem feedByteIn_yy (bytes : List Byte) (eod : Bool) (s : State) : (feedByteIn bytes eod s).yy = s.yy := rfl
@[simp] theorem feedByteIn_block (bytes : List Byte) (eod : Bool) (s : State) : (feedByteIn bytes eod s).block = s.block := rfl
@[simp] theorem feedByteIn_zptr (bytes : List Byte) (eod : Bool) (s : State) : (feedByteIn bytes eod s).zptr = s.zptr := rfl
@[simp] theorem feedByteIn_ll (bytes : List Byte) (eod : Bool) (s : State) : (feedByteIn bytes eod s).ll = s.ll := rfl
@[simp] theorem feedByteIn_nextIdx (bytes : List Byte) (eod : Bool) (s : State) : (feedByteIn bytes eod s).nextIdx = s.nextIdx := rfl
@[simp] theorem feedByteIn_ftab (bytes : List Byte) (eod : Bool) (s : State) : (feedByteIn bytes eod s).ftab = s.ftab := rfl
@[simp] theorem feedByteIn_cc (bytes : List Byte) (eod : Bool) (s : State) : (feedByteIn bytes eod s).cc = s.cc := rfl
@[simp] theorem feedByteIn_qstack (bytes : List Byte) (eod : Bool) (s : State) : (feedByteIn bytes eod s).qstack = s.qstack := rfl
@[simp] theorem feedByteIn_pos (bytes : List Byte) (eod : Bool) (s : State) : (feedByteIn bytes eod s).pos = s.pos := rfl
@[simp] theorem feedByteIn_byteIn (bytes : List Byte) (eod : Bool) (s : State) : (feedByteIn bytes eod s).byteIn = if byteStreamClosed s then s.byteIn else s.byteIn ++ bytes := rfl
@[simp] theorem feedByteIn_byteInEod (bytes : List Byte) (eod : Bool) (s : State) : (feedByteIn bytes eod s).byteInEod = if byteStreamClosed s then s.byteInEod else eod := rfl
@[simp] theorem feedByteIn_byteInGiven (bytes : List Byte) (eod : Bool) (s : State) : (feedByteIn bytes eod s).byteInGiven = s.byteInGiven := rfl
@[simp] theorem feedByteIn_byteInLater (bytes : List Byte) (eod : Bool) (s : State) : (feedByteIn bytes eod s).byteInLater = if byteStreamClosed s then supplyLater s.byteInLater bytes eod else s.byteInLater := rfl
@[simp] theorem feedByteIn_bitIn (bytes : List Byte) (eod : Bool) (s : State) : (feedByteIn bytes eod s).bitIn = s.bitIn := rfl
@[simp] theorem feedByteIn_bitInEod (bytes : List Byte) (eod : Bool) (s : State) : (feedByteIn bytes eod s).bitInEod = s.bitInEod := rfl
@[simp] theorem feedByteIn_bitInGiven (bytes : List Byte) (eod : Bool) (s : State) : (feedByteIn bytes eod s).bitInGiven = s.bitInGiven := rfl
@[simp] theorem feedByteIn_bitInLater (bytes : List Byte) (eod : Bool) (s : State) : (feedByteIn bytes eod s).bitInLater = s.bitInLater := rfl
@[simp] theorem feedByteIn_bitOut (bytes : List Byte) (eod : Bool) (s : State) : (feedByteIn bytes eod s).bitOut = s.bitOut := rfl
@[simp] theorem feedByteIn_byteOut (bytes : List Byte) (eod : Bool) (s : State) : (feedByteIn bytes eod s).byteOut = s.byteOut := rfl
@[simp] theorem feedByteIn_host (bytes : List Byte) (eod : Bool) (s : State) : (feedByteIn bytes eod s).host = s.host := rfl
@[simp] theorem feedByteIn_hostData (bytes : List Byte) (eod : Bool) (s : State) : (feedByteIn bytes eod s).hostData = s.hostData := rfl
@[simp] theorem feedByteIn_latch (bytes : List Byte) (eod : Bool) (s : State) : (feedByteIn bytes eod s).latch = s.latch := rfl
@[simp] theorem feedByteIn_result (bytes : List Byte) (eod : Bool) (s : State) : (feedByteIn bytes eod s).result = s.result := rfl
@[simp] theorem feedByteIn_freeCount (bytes : List Byte) (eod : Bool) (s : State) : (feedByteIn bytes eod s).freeCount = s.freeCount := rfl
@[simp] theorem feedByteIn_par (bytes : List Byte) (eod : Bool) (s : State) : (feedByteIn bytes eod s).par = s.par := rfl

@[simp] theorem feedBitIn_busy (bits : List Bool) (eod : Bool) (s : State) : (feedBitIn bits eod s).busy = s.busy := rfl
@[simp] theorem feedBitIn_done (bits : List Bool) (eod : Bool) (s : State) : (feedBitIn bits eod s).done = s.done := rfl
@[simp] theorem feedBitIn_fault (bits : List Bool) (eod : Bool) (s : State) : (feedBitIn bits eod s).fault = s.fault := rfl
@[simp] theorem feedBitIn_finalBlock (bits : List Bool) (eod : Bool) (s : State) : (feedBitIn bits eod s).finalBlock = s.finalBlock := rfl
@[simp] theorem feedBitIn_mode (bits : List Bool) (eod : Bool) (s : State) : (feedBitIn bits eod s).mode = s.mode := rfl
@[simp] theorem feedBitIn_phase (bits : List Bool) (eod : Bool) (s : State) : (feedBitIn bits eod s).phase = s.phase := rfl
@[simp] theorem feedBitIn_err (bits : List Bool) (eod : Bool) (s : State) : (feedBitIn bits eod s).err = s.err := rfl
@[simp] theorem feedBitIn_level (bits : List Bool) (eod : Bool) (s : State) : (feedBitIn bits eod s).level = s.level := rfl
@[simp] theorem feedBitIn_crc (bits : List Bool) (eod : Bool) (s : State) : (feedBitIn bits eod s).crc = s.crc := rfl
@[simp] theorem feedBitIn_n (bits : List Bool) (eod : Bool) (s : State) : (feedBitIn bits eod s).n = s.n := rfl
@[simp] theorem feedBitIn_origptr (bits : List Bool) (eod : Bool) (s : State) : (feedBitIn bits eod s).origptr = s.origptr := rfl
@[simp] theorem feedBitIn_l (bits : List Bool) (eod : Bool) (s : State) : (feedBitIn bits eod s).l = s.l := rfl
@[simp] theorem feedBitIn_r (bits : List Bool) (eod : Bool) (s : State) : (feedBitIn bits eod s).r = s.r := rfl
@[simp] theorem feedBitIn_bo (bits : List Bool) (eod : Bool) (s : State) : (feedBitIn bits eod s).bo = s.bo := rfl
@[simp] theorem feedBitIn_d (bits : List Bool) (eod : Bool) (s : State) : (feedBitIn bits eod s).d = s.d := rfl
@[simp] theorem feedBitIn_laValid (bits : List Bool) (eod : Bool) (s : State) : (feedBitIn bits eod s).laValid = s.laValid := rfl
@[simp] theorem feedBitIn_laByte (bits : List Bool) (eod : Bool) (s : State) : (feedBitIn bits eod s).laByte = s.laByte := rfl
@[simp] theorem feedBitIn_srcEod (bits : List Bool) (eod : Bool) (s : State) : (feedBitIn bits eod s).srcEod = s.srcEod := rfl
@[simp] theorem feedBitIn_zp (bits : List Bool) (eod : Bool) (s : State) : (feedBitIn bits eod s).zp = s.zp := rfl
@[simp] theorem feedBitIn_runacc (bits : List Bool) (eod : Bool) (s : State) : (feedBitIn bits eod s).runacc = s.runacc := rfl
@[simp] theorem feedBitIn_runw (bits : List Bool) (eod : Bool) (s : State) : (feedBitIn bits eod s).runw = s.runw := rfl
@[simp] theorem feedBitIn_spos (bits : List Bool) (eod : Bool) (s : State) : (feedBitIn bits eod s).spos = s.spos := rfl
@[simp] theorem feedBitIn_sidx (bits : List Bool) (eod : Bool) (s : State) : (feedBitIn bits eod s).sidx = s.sidx := rfl
@[simp] theorem feedBitIn_models (bits : List Bool) (eod : Bool) (s : State) : (feedBitIn bits eod s).models = s.models := rfl
@[simp] theorem feedBitIn_yy (bits : List Bool) (eod : Bool) (s : State) : (feedBitIn bits eod s).yy = s.yy := rfl
@[simp] theorem feedBitIn_block (bits : List Bool) (eod : Bool) (s : State) : (feedBitIn bits eod s).block = s.block := rfl
@[simp] theorem feedBitIn_zptr (bits : List Bool) (eod : Bool) (s : State) : (feedBitIn bits eod s).zptr = s.zptr := rfl
@[simp] theorem feedBitIn_ll (bits : List Bool) (eod : Bool) (s : State) : (feedBitIn bits eod s).ll = s.ll := rfl
@[simp] theorem feedBitIn_nextIdx (bits : List Bool) (eod : Bool) (s : State) : (feedBitIn bits eod s).nextIdx = s.nextIdx := rfl
@[simp] theorem feedBitIn_ftab (bits : List Bool) (eod : Bool) (s : State) : (feedBitIn bits eod s).ftab = s.ftab := rfl
@[simp] theorem feedBitIn_cc (bits : List Bool) (eod : Bool) (s : State) : (feedBitIn bits eod s).cc = s.cc := rfl
@[simp] theorem feedBitIn_qstack (bits : List Bool) (eod : Bool) (s : State) : (feedBitIn bits eod s).qstack = s.qstack := rfl
@[simp] theorem feedBitIn_pos (bits : List Bool) (eod : Bool) (s : State) : (feedBitIn bits eod s).pos = s.pos := rfl
@[simp] theorem feedBitIn_byteIn (bits : List Bool) (eod : Bool) (s : State) : (feedBitIn bits eod s).byteIn = s.byteIn := rfl
@[simp] theorem feedBitIn_byteInEod (bits : List Bool) (eod : Bool) (s : State) : (feedBitIn bits eod s).byteInEod = s.byteInEod := rfl
@[simp] theorem feedBitIn_byteInGiven (bits : List Bool) (eod : Bool) (s : State) : (feedBitIn bits eod s).byteInGiven = s.byteInGiven := rfl
@[simp] theorem feedBitIn_byteInLater (bits : List Bool) (eod : Bool) (s : State) : (feedBitIn bits eod s).byteInLater = s.byteInLater := rfl
@[simp] theorem feedBitIn_bitIn (bits : List Bool) (eod : Bool) (s : State) : (feedBitIn bits eod s).bitIn = if bitStreamClosed s then s.bitIn else s.bitIn ++ bits := rfl
@[simp] theorem feedBitIn_bitInEod (bits : List Bool) (eod : Bool) (s : State) : (feedBitIn bits eod s).bitInEod = if bitStreamClosed s then s.bitInEod else eod := rfl
@[simp] theorem feedBitIn_bitInGiven (bits : List Bool) (eod : Bool) (s : State) : (feedBitIn bits eod s).bitInGiven = s.bitInGiven := rfl
@[simp] theorem feedBitIn_bitInLater (bits : List Bool) (eod : Bool) (s : State) : (feedBitIn bits eod s).bitInLater = if bitStreamClosed s then supplyLater s.bitInLater bits eod else s.bitInLater := rfl
@[simp] theorem feedBitIn_bitOut (bits : List Bool) (eod : Bool) (s : State) : (feedBitIn bits eod s).bitOut = s.bitOut := rfl
@[simp] theorem feedBitIn_byteOut (bits : List Bool) (eod : Bool) (s : State) : (feedBitIn bits eod s).byteOut = s.byteOut := rfl
@[simp] theorem feedBitIn_host (bits : List Bool) (eod : Bool) (s : State) : (feedBitIn bits eod s).host = s.host := rfl
@[simp] theorem feedBitIn_hostData (bits : List Bool) (eod : Bool) (s : State) : (feedBitIn bits eod s).hostData = s.hostData := rfl
@[simp] theorem feedBitIn_latch (bits : List Bool) (eod : Bool) (s : State) : (feedBitIn bits eod s).latch = s.latch := rfl
@[simp] theorem feedBitIn_result (bits : List Bool) (eod : Bool) (s : State) : (feedBitIn bits eod s).result = s.result := rfl
@[simp] theorem feedBitIn_freeCount (bits : List Bool) (eod : Bool) (s : State) : (feedBitIn bits eod s).freeCount = s.freeCount := rfl
@[simp] theorem feedBitIn_par (bits : List Bool) (eod : Bool) (s : State) : (feedBitIn bits eod s).par = s.par := rfl

/-! ## `clearedState` (R294, R380) -/

@[simp] theorem clearedState_busy (s : State) : (clearedState s).busy = false := rfl
@[simp] theorem clearedState_done (s : State) : (clearedState s).done = false := rfl
@[simp] theorem clearedState_fault (s : State) : (clearedState s).fault = false := rfl
@[simp] theorem clearedState_finalBlock (s : State) : (clearedState s).finalBlock = false := rfl
@[simp] theorem clearedState_mode (s : State) : (clearedState s).mode = .none := rfl
@[simp] theorem clearedState_phase (s : State) : (clearedState s).phase = .idle := rfl
@[simp] theorem clearedState_err (s : State) : (clearedState s).err = 0#8 := rfl
@[simp] theorem clearedState_level (s : State) : (clearedState s).level = 0#4 := rfl
@[simp] theorem clearedState_crc (s : State) : (clearedState s).crc = 0#32 := rfl
@[simp] theorem clearedState_n (s : State) : (clearedState s).n = 0#32 := rfl
@[simp] theorem clearedState_origptr (s : State) : (clearedState s).origptr = 0#32 := rfl
@[simp] theorem clearedState_l (s : State) : (clearedState s).l = 0#32 := rfl
@[simp] theorem clearedState_r (s : State) : (clearedState s).r = half := rfl
@[simp] theorem clearedState_bo (s : State) : (clearedState s).bo = 0#32 := rfl
@[simp] theorem clearedState_d (s : State) : (clearedState s).d = 0#32 := rfl
@[simp] theorem clearedState_laValid (s : State) : (clearedState s).laValid = false := rfl
@[simp] theorem clearedState_laByte (s : State) : (clearedState s).laByte = 0#8 := rfl
@[simp] theorem clearedState_srcEod (s : State) : (clearedState s).srcEod = false := rfl
@[simp] theorem clearedState_zp (s : State) : (clearedState s).zp = 0#32 := rfl
@[simp] theorem clearedState_runacc (s : State) : (clearedState s).runacc = 0#32 := rfl
@[simp] theorem clearedState_runw (s : State) : (clearedState s).runw = 1#32 := rfl
@[simp] theorem clearedState_spos (s : State) : (clearedState s).spos = BitVec.ofNat 32 spotBase := rfl
@[simp] theorem clearedState_sidx (s : State) : (clearedState s).sidx = 0#4 := rfl
@[simp] theorem clearedState_models (s : State) : (clearedState s).models = initialModels s.par := rfl
@[simp] theorem clearedState_yy (s : State) : (clearedState s).yy = initialList := rfl
@[simp] theorem clearedState_block (s : State) : (clearedState s).block = [] := rfl
@[simp] theorem clearedState_zptr (s : State) : (clearedState s).zptr = [] := rfl
@[simp] theorem clearedState_ll (s : State) : (clearedState s).ll = [] := rfl
@[simp] theorem clearedState_nextIdx (s : State) : (clearedState s).nextIdx = [] := rfl
@[simp] theorem clearedState_ftab (s : State) : (clearedState s).ftab = [] := rfl
@[simp] theorem clearedState_cc (s : State) : (clearedState s).cc = [] := rfl
@[simp] theorem clearedState_qstack (s : State) : (clearedState s).qstack = [] := rfl
@[simp] theorem clearedState_pos (s : State) : (clearedState s).pos = 0#32 := rfl
@[simp] theorem clearedState_byteIn (s : State) : (clearedState s).byteIn = s.byteIn := rfl
@[simp] theorem clearedState_byteInEod (s : State) : (clearedState s).byteInEod = s.byteInEod := rfl
@[simp] theorem clearedState_byteInGiven (s : State) : (clearedState s).byteInGiven = s.byteInGiven := rfl
@[simp] theorem clearedState_byteInLater (s : State) : (clearedState s).byteInLater = s.byteInLater := rfl
@[simp] theorem clearedState_bitIn (s : State) : (clearedState s).bitIn = s.bitIn := rfl
@[simp] theorem clearedState_bitInEod (s : State) : (clearedState s).bitInEod = s.bitInEod := rfl
@[simp] theorem clearedState_bitInGiven (s : State) : (clearedState s).bitInGiven = s.bitInGiven := rfl
@[simp] theorem clearedState_bitInLater (s : State) : (clearedState s).bitInLater = s.bitInLater := rfl
@[simp] theorem clearedState_bitOut (s : State) : (clearedState s).bitOut = s.bitOut := rfl
@[simp] theorem clearedState_byteOut (s : State) : (clearedState s).byteOut = s.byteOut := rfl
@[simp] theorem clearedState_host (s : State) : (clearedState s).host = s.host := rfl
@[simp] theorem clearedState_hostData (s : State) : (clearedState s).hostData = s.hostData := rfl
@[simp] theorem clearedState_latch (s : State) : (clearedState s).latch = none := rfl
@[simp] theorem clearedState_result (s : State) : (clearedState s).result = [] := rfl
@[simp] theorem clearedState_freeCount (s : State) : (clearedState s).freeCount = s.freeCount := rfl
@[simp] theorem clearedState_par (s : State) : (clearedState s).par = s.par := rfl

end Sys2Proof.Machine
end

