-- ==== Sys2Proof/Tests/Slice0.lean ====
section
/-! SUPPORT. Tests: the well-formedness checks, decoding of words written out from the spec, the constant table,
one-step tests from the vectors of 95_test_vectors.md, and for every statement with hypotheses a state and
operands that meet them. -/

namespace Sys2Proof.Tests

set_option Elab.async false

open Sys2Proof.Machine

/-! ## Helpers -/

/-- A field of the next state, if there is one. -/
def after {α : Type} (o : Host.Outcome State Fault Refusal) (f : State → α) : Option α :=
  match o with
  | .next t => some (f t)
  | .fault _ => none
  | .refused _ => none

theorem exists_of_after {α : Type} {o : Host.Outcome State Fault Refusal} {f : State → α} {x : α}
    (h : after o f = some x) : ∃ t, o = .next t ∧ f t = x := by
  cases o with
  | next t => exact ⟨t, rfl, by simpa [after] using h⟩
  | fault e => simp [after] at h
  | refused e => simp [after] at h

/-- The symbols a decoding returns, and a field of the state after it. -/
def decoded {α : Type} (x : EStateM.Result Stop State (List Nat)) (f : State → α) :
    Option (List Nat × α) :=
  match x with
  | .ok syms u => some (syms, f u)
  | .error _ _ => none

theorem exists_of_decoded {α : Type} {x : EStateM.Result Stop State (List Nat)} {f : State → α}
    {syms : List Nat} {y : α} (h : decoded x f = some (syms, y)) :
    ∃ u, x = .ok syms u ∧ f u = y := by
  cases x with
  | ok l u =>
    simp only [decoded, Option.some.injEq, Prod.mk.injEq] at h
    exact ⟨u, by rw [h.1], h.2⟩
  | error e u => simp [decoded] at h

/-- Bits from their printed form. -/
def bitsOf (text : String) : List Bool := text.toList.map fun ch => ch == '1'

/-- Array cells from element 0 on; zeros are not listed. -/
def cellsOf {w : Nat} (values : List (BitVec w)) : Arr w :=
  (values.zipIdx.map fun vi => (vi.2, vi.1)).filter fun iv => iv.2 != 0#w

/-- A block of the given bytes in a level-1 compress run. -/
def blockState (bytes : List Byte) : State :=
  { State.reset with
    busy := true, mode := .compress, phase := .sort, level := 1#4
    n := BitVec.ofNat 32 bytes.length, block := cellsOf bytes }

/-- "banana" with its sentinel (V-BWT-6). -/
def banana : State := blockState [98, 97, 110, 97, 110, 97, 42]

/-- The same, padded, with the identity in ZPTR. -/
def bananaPadded : State :=
  { blockState ([98, 97, 110, 97, 110, 97, 42, 98, 97, 110, 97, 110, 97, 42, 98, 97, 110, 97, 110,
      97, 42, 98, 97]) with
    n := 7#32, zptr := cellsOf [0, 1, 2, 3, 4, 5, 6] }

/-- The same, sorted and final (V-BWT-6), at the start of ENCODE. -/
def bananaSorted : State :=
  { banana with
    phase := .encode, zptr := cellsOf [6, 5, 3, 1, 0, 4, 2], origptr := 4#32, finalBlock := true }

/-- A block of 16 bytes for the bucket path. -/
def sixteen : State := blockState [3, 1, 4, 1, 5, 9, 2, 6, 5, 3, 5, 8, 9, 7, 9, 3]

/-- The last column of V-BWT-6, at the start of INVERT_SORT. -/
def bananaColumn : State :=
  { State.reset with
    busy := true, mode := .decompress, phase := .invertSort, level := 1#4, n := 7#32
    origptr := 4#32, ll := cellsOf [97, 110, 110, 98, 42, 97, 97] }

/-- A decoder primed on the bits of V-AC-1 (`D = 0`), 56 bits left. -/
def primedDecoder : State :=
  { State.reset with
    mode := .decompress, level := 1#4
    bitIn := bitsOf "00000011111111110000000011111110000000000000000000000000" }

/-- The coded part of V-STREAM-1, before DECODE. -/
def emptyStream : State :=
  { State.reset with
    busy := true, mode := .decompress, phase := .headerD, bitInEod := true
    bitIn := bitsOf "011111111111111111111111111111111101010101101100100101011011101000000000000000000000000000000000000000" }

/-- The same after the 26 priming bits, at the start of DECODE. -/
def emptyStreamPrimed : State :=
  { emptyStream with
    phase := .decode, level := 1#4, crc := crcStart
    d := BitVec.ofNat 32 (bitsValue (emptyStream.bitIn.take 26)), bitIn := emptyStream.bitIn.drop 26 }

/-- A loader's state with the given input and its end. -/
def loaderState (bytes : List Byte) : State :=
  { State.reset with
    busy := true, mode := .compress, phase := .loadRle, level := 1#4, byteIn := bytes
    byteInEod := true, crc := crcStart }

/-- A decompress run in the middle of a block. -/
def receiver : State :=
  { State.reset with
    busy := true, mode := .decompress, phase := .decode, level := 1#4, pos := 3#32, runacc := 2#32
    runw := 4#32, bitIn := List.replicate 40 false }

/-! ## Well-formedness refuses what the rules do not allow -/

theorem wf_refuses_level_zero : Instr.wellFormed (.compress 0#4) = false := by decide
theorem wf_refuses_level_ten : Instr.wellFormed (.streamMagic 10#4) = false := by decide
theorem wf_refuses_empty_unit : Instr.wellFormed (.rle1Short 97#8 0#2) = false := by decide
theorem wf_refuses_update_symbol : Instr.wellFormed (.modelUpdate 0 11) = false := by decide
theorem wf_refuses_encode_symbol : Instr.wellFormed (.acEncode 1 2) = false := by decide
theorem wf_refuses_take_zero : Instr.wellFormed (.mtfTake 0#8) = false := by decide
theorem wf_refuses_send_zero : Instr.wellFormed (.mtfSendVal 0#8) = false := by decide
theorem wf_refuses_qsort_range : Instr.wellFormed (.bwtQsort 3#32 2#32) = false := by decide
theorem wf_refuses_partition_range : Instr.wellFormed (.bwtPartition 1#32 0#32 0#32) = false := by
  decide
theorem wf_refuses_insertion_range : Instr.wellFormed (.bwtInsertion 9#32 8#32) = false := by decide
theorem wf_accepts_the_rest :
    (Instr.compress 9#4).wellFormed = true ∧ (Instr.rle1Short 97#8 3#2).wellFormed = true ∧
      (Instr.acEncode 8 255).wellFormed = true ∧ (Instr.bwtQsort 2#32 2#32).wellFormed = true := by
  decide

/-! ## Words written out from the spec's encodings -/

/-- R91: OP in bits 7:0, LVL in bits 11:8. -/
theorem test_decode_commands :
    decode (.cmd 0b00000000000000000000_0000_00000000#32) = .ok .nop ∧
    decode (.cmd 0b00000000000000000000_0001_00000001#32) = .ok (.compress 1#4) ∧
    decode (.cmd 0b00000000000000000000_1001_00000001#32) = .ok (.compress 9#4) ∧
    decode (.cmd 0b00000000000000000000_0000_00000010#32) = .ok .decompress ∧
    decode (.cmd 0b00000000000000000000_0000_00001111#32) = .ok .abort := by decide

/-- R92 and R296: the illegal words printed there. -/
theorem test_decode_illegal_commands :
    decode (.cmd 0x00000003#32) = .error .cmdUnknownOp ∧
    decode (.cmd 0x00000001#32) = .error .cmdLevelRange ∧
    decode (.cmd 0x00000A01#32) = .error .cmdLevelRange ∧
    decode (.cmd 0x00000102#32) = .error .cmdLevelField ∧
    decode (.cmd 0x00010001#32) = .error .cmdZeroField := by decide

/-- R23. -/
theorem test_decode_phases :
    [0, 1, 2, 3, 4, 5, 6, 8, 9, 10, 11, 12, 13].map (fun c => (decode (.phase c)).toOption) =
      [some .phaseIdle, some .phaseHeaderC, some .phaseLoadRle, some .phaseSpot, some .phaseSort,
        some .phaseEncode, some .phaseTrailerC, some .phaseHeaderD, some .phaseDecode,
        some .phaseInvertSort, some .phaseUnspot, some .phaseUnrle, some .phaseTrailerD] ∧
    [7, 14, 15].all (fun c => (decode (.phase c)).toOption = none) := by decide

/-- R341. -/
theorem test_decode_faults :
    [0x10, 0x11, 0x12, 0x13, 0x14, 0x15, 0x16, 0x20, 0x30, 0x31, 0x32, 0x40].map
        (fun c => (decode (.fault c)).toOption) =
      [some .faultBadMagic, some .faultTruncated, some .faultBlockOverrun, some .faultBadSentinel,
        some .faultCrcMismatch, some .faultBadOrigptr, some .faultBadRle1, some .faultResource,
        some .faultModelSymbolRange, some .faultBitsRunaway, some .faultOrigptrNotFound,
        some .faultIllegalCmd] ∧
    decode (.fault 0x17#8) = .error .faultUnused := by decide

/-- R100. -/
theorem test_decode_basis :
    [0b0000, 0b0001, 0b0010, 0b0011, 0b0100, 0b0101, 0b0110, 0b0111, 0b1000, 0b1001, 0b1010].map
        (fun c => (decode (.basis c)).toOption) =
      [some .basisRuna, some .basisRunb, some .basisOne, some .basis2To3, some .basis4To7,
        some .basis8To15, some .basis16To31, some .basis32To63, some .basis64To127,
        some .basis128To255, some .basisEob] ∧
    decode (.basis 0b1011#4) = .error .basisUnused := by decide

/-- R96 (level 1: `01000010 01011010 00110000 00110001`), R104, R103. -/
theorem test_decode_stream :
    decode (.magic 0b01000010010110100011000000110001#32) = .ok (.streamMagic 1#4) ∧
    decode (.magic 0x425A3130#32) = .error .notMagic ∧
    decode (.magic 0x425A303A#32) = .error .notMagic ∧
    decode (.origword 0xFFFFFFFA#32) = .ok (.streamOrigword 0xFFFFFFFA#32) ∧
    decode (.crc32 0x19939B6B#32) = .ok (.streamCrc32 0x19939B6B#32) := by decide

/-- R105, R106, by the bytes of the units of R265. -/
theorem test_decode_block :
    decode (.unit [0x61#8]) = .ok (.rle1Short 0x61#8 1#2) ∧
    decode (.unit [0x61#8, 0x61#8, 0x61#8]) = .ok (.rle1Short 0x61#8 3#2) ∧
    decode (.unit [0x61#8, 0x61#8, 0x61#8, 0x61#8, 0xFB#8]) = .ok (.rle1Long 0x61#8 0xFB#8) ∧
    decode (.unit [0x61#8, 0x62#8]) = .error .notAUnit ∧
    decode (.sentinel 42#8) = .ok .rle1Sentinel ∧
    decode (.sentinel 43#8) = .error .notSentinel := by decide

/-! ## The constant table -/

/-- CRCTAB[0..64), the listing of R131. -/
theorem test_crctab_0 :
    ((List.range 64).map fun i => (crcTab (BitVec.ofNat 8 (0 + i))).toNat) =
      [0x00000000, 0x04C11DB7, 0x09823B6E, 0x0D4326D9, 0x130476DC, 0x17C56B6B,
       0x1A864DB2, 0x1E475005, 0x2608EDB8, 0x22C9F00F, 0x2F8AD6D6, 0x2B4BCB61,
       0x350C9B64, 0x31CD86D3, 0x3C8EA00A, 0x384FBDBD, 0x4C11DB70, 0x48D0C6C7,
       0x4593E01E, 0x4152FDA9, 0x5F15ADAC, 0x5BD4B01B, 0x569796C2, 0x52568B75,
       0x6A1936C8, 0x6ED82B7F, 0x639B0DA6, 0x675A1011, 0x791D4014, 0x7DDC5DA3,
       0x709F7B7A, 0x745E66CD, 0x9823B6E0, 0x9CE2AB57, 0x91A18D8E, 0x95609039,
       0x8B27C03C, 0x8FE6DD8B, 0x82A5FB52, 0x8664E6E5, 0xBE2B5B58, 0xBAEA46EF,
       0xB7A96036, 0xB3687D81, 0xAD2F2D84, 0xA9EE3033, 0xA4AD16EA, 0xA06C0B5D,
       0xD4326D90, 0xD0F37027, 0xDDB056FE, 0xD9714B49, 0xC7361B4C, 0xC3F706FB,
       0xCEB42022, 0xCA753D95, 0xF23A8028, 0xF6FB9D9F, 0xFBB8BB46, 0xFF79A6F1,
       0xE13EF6F4, 0xE5FFEB43, 0xE8BCCD9A, 0xEC7DD02D] := by
  decide +kernel

/-- CRCTAB[64..128), the listing of R131. -/
theorem test_crctab_1 :
    ((List.range 64).map fun i => (crcTab (BitVec.ofNat 8 (64 + i))).toNat) =
      [0x34867077, 0x30476DC0, 0x3D044B19, 0x39C556AE, 0x278206AB, 0x23431B1C,
       0x2E003DC5, 0x2AC12072, 0x128E9DCF, 0x164F8078, 0x1B0CA6A1, 0x1FCDBB16,
       0x018AEB13, 0x054BF6A4, 0x0808D07D, 0x0CC9CDCA, 0x7897AB07, 0x7C56B6B0,
       0x71159069, 0x75D48DDE, 0x6B93DDDB, 0x6F52C06C, 0x6211E6B5, 0x66D0FB02,
       0x5E9F46BF, 0x5A5E5B08, 0x571D7DD1, 0x53DC6066, 0x4D9B3063, 0x495A2DD4,
       0x44190B0D, 0x40D816BA, 0xACA5C697, 0xA864DB20, 0xA527FDF9, 0xA1E6E04E,
       0xBFA1B04B, 0xBB60ADFC, 0xB6238B25, 0xB2E29692, 0x8AAD2B2F, 0x8E6C3698,
       0x832F1041, 0x87EE0DF6, 0x99A95DF3, 0x9D684044, 0x902B669D, 0x94EA7B2A,
       0xE0B41DE7, 0xE4750050, 0xE9362689, 0xEDF73B3E, 0xF3B06B3B, 0xF771768C,
       0xFA325055, 0xFEF34DE2, 0xC6BCF05F, 0xC27DEDE8, 0xCF3ECB31, 0xCBFFD686,
       0xD5B88683, 0xD1799B34, 0xDC3ABDED, 0xD8FBA05A] := by
  decide +kernel

/-- CRCTAB[128..192), the listing of R131. -/
theorem test_crctab_2 :
    ((List.range 64).map fun i => (crcTab (BitVec.ofNat 8 (128 + i))).toNat) =
      [0x690CE0EE, 0x6DCDFD59, 0x608EDB80, 0x644FC637, 0x7A089632, 0x7EC98B85,
       0x738AAD5C, 0x774BB0EB, 0x4F040D56, 0x4BC510E1, 0x46863638, 0x42472B8F,
       0x5C007B8A, 0x58C1663D, 0x558240E4, 0x51435D53, 0x251D3B9E, 0x21DC2629,
       0x2C9F00F0, 0x285E1D47, 0x36194D42, 0x32D850F5, 0x3F9B762C, 0x3B5A6B9B,
       0x0315D626, 0x07D4CB91, 0x0A97ED48, 0x0E56F0FF, 0x1011A0FA, 0x14D0BD4D,
       0x19939B94, 0x1D528623, 0xF12F560E, 0xF5EE4BB9, 0xF8AD6D60, 0xFC6C70D7,
       0xE22B20D2, 0xE6EA3D65, 0xEBA91BBC, 0xEF68060B, 0xD727BBB6, 0xD3E6A601,
       0xDEA580D8, 0xDA649D6F, 0xC423CD6A, 0xC0E2D0DD, 0xCDA1F604, 0xC960EBB3,
       0xBD3E8D7E, 0xB9FF90C9, 0xB4BCB610, 0xB07DABA7, 0xAE3AFBA2, 0xAAFBE615,
       0xA7B8C0CC, 0xA379DD7B, 0x9B3660C6, 0x9FF77D71, 0x92B45BA8, 0x9675461F,
       0x8832161A, 0x8CF30BAD, 0x81B02D74, 0x857130C3] := by
  decide +kernel

/-- CRCTAB[192..256), the listing of R131. -/
theorem test_crctab_3 :
    ((List.range 64).map fun i => (crcTab (BitVec.ofNat 8 (192 + i))).toNat) =
      [0x5D8A9099, 0x594B8D2E, 0x5408ABF7, 0x50C9B640, 0x4E8EE645, 0x4A4FFBF2,
       0x470CDD2B, 0x43CDC09C, 0x7B827D21, 0x7F436096, 0x7200464F, 0x76C15BF8,
       0x68860BFD, 0x6C47164A, 0x61043093, 0x65C52D24, 0x119B4BE9, 0x155A565E,
       0x18197087, 0x1CD86D30, 0x029F3D35, 0x065E2082, 0x0B1D065B, 0x0FDC1BEC,
       0x3793A651, 0x3352BBE6, 0x3E119D3F, 0x3AD08088, 0x2497D08D, 0x2056CD3A,
       0x2D15EBE3, 0x29D4F654, 0xC5A92679, 0xC1683BCE, 0xCC2B1D17, 0xC8EA00A0,
       0xD6AD50A5, 0xD26C4D12, 0xDF2F6BCB, 0xDBEE767C, 0xE3A1CBC1, 0xE760D676,
       0xEA23F0AF, 0xEEE2ED18, 0xF0A5BD1D, 0xF464A0AA, 0xF9278673, 0xFDE69BC4,
       0x89B8FD09, 0x8D79E0BE, 0x803AC667, 0x84FBDBD0, 0x9ABC8BD5, 0x9E7D9662,
       0x933EB0BB, 0x97FFAD0C, 0xAFB010B1, 0xAB710D06, 0xA6322BDF, 0xA2F33668,
       0xBCB4666D, 0xB8757BDA, 0xB5365D03, 0xB1F740B4] := by
  decide +kernel

/-! ## Host acts, commands and phases -/

/-- R21, R22: a busy DECODE of a compress-free core reads STATUS 0x921. -/
theorem test_read_status :
    after (step { State.reset with
      busy := true, mode := .decompress, phase := .decode, host := [.read 1] }) (·.hostData) =
      some 0x921#32 := by decide +kernel

/-- R93: `COMPRESS 9` is the word 0x00000901. -/
theorem test_compress_written :
    after (step { State.reset with host := [.write 0 0x00000901#32] })
      (fun t => (t.level, t.mode, t.phase, t.busy)) =
      some (9#4, .compress, .headerC, true) := by decide +kernel

theorem test_decompress_clears_done :
    after (exec .decompress { State.reset with done := true, level := 3#4 })
      (fun t => (t.done, t.busy, t.level, t.phase)) = some (false, true, 0#4, .headerD) := by
  decide +kernel

/-- R296: 0x00000003 leaves ERR = 0x40. -/
theorem test_illegal_written :
    after (step { State.reset with host := [.write 0 0x00000003#32] })
      (fun t => (t.err, t.fault, t.phase)) = some (0x40#8, true, .idle) := by decide +kernel

/-- P2's order on one port (R297): the second COMPRESS finds its own bytes, not the first run's EOD. -/
theorem test_second_run_finds_its_own_stream :
    after (step { State.reset with
      byteInGiven := true, byteInEod := true, byteInLater := [([0x62#8], true)]
      host := [.write 0 0x00000101#32] })
      (fun t => (t.byteIn, t.byteInEod, t.byteInLater, t.phase)) =
        some ([0x62#8], true, [], .headerC) := by decide

/-- Bits fed after a run ended are the next run's, not the rest of the last one's (R297). -/
theorem test_feed_after_a_run_waits_for_the_next :
    after (step { State.reset with
      bitInGiven := true, bitIn := [true], host := [.feedBits [false] true] })
      (fun t => (t.bitIn, t.bitInLater)) = some ([true], [([false], true)]) := by decide

/-- R294: output pushed before an ABORT stays. -/
theorem test_abort_keeps_output :
    after (exec .abort { State.reset with fault := true, err := 0x11#8, bitOut := [true] })
      (fun t => (t.fault, t.err, t.bitOut)) = some (false, 0x00#8, [true]) := by decide +kernel

/-- R301: the first 32 bits of V-STREAM-1. -/
theorem test_header_c :
    after (exec .phaseHeaderC { State.reset with
      busy := true, mode := .compress, phase := .headerC, level := 1#4 })
      (fun t => (t.bitOut, t.r, t.crc, t.phase)) =
      some (bitsOf "01000010010110100011000000110001", 33554432#32, 0xFFFFFFFF#32, .loadRle) := by decide +kernel

/-- R310 on the bits of V-STREAM-1: LEVEL = 1, D from the first 26 coded bits. -/
theorem test_header_d :
    after (exec .phaseHeaderD { emptyStream with bitIn := bitsOf "01000010010110100011000000110001" ++ emptyStream.bitIn })
      (fun t => (t.level, t.d, t.bitIn.length, t.phase)) =
      some (1#4, emptyStreamPrimed.d, 76, .decode) := by decide +kernel

/-- R300: ENCODE of a block that is not final is followed by LOAD_RLE. -/
theorem test_phase_next :
    after (exec .phaseNext { State.reset with busy := true, phase := .encode }) (·.phase) =
      some .loadRle := by decide +kernel

theorem test_run_end :
    after (exec .runEnd { State.reset with busy := true, phase := .trailerC })
      (fun t => (t.busy, t.done, t.phase)) = some (false, true, .idle) := by decide +kernel

/-- R315: the stored word 0x00000001 (the first four bytes of V-AC-1) against CRC = 0xFFFFFFFE. -/
theorem test_trailer_d :
    after (exec .phaseTrailerD { primedDecoder with
      busy := true, phase := .trailerD, crc := 0xFFFFFFFE#32 })
      (fun t => (t.done, t.fault, t.phase)) = some (true, false, .idle) := by decide +kernel

/-- V-STREAM-1: DECODE of the empty input's block: N = 1, ORIGPTR = 0, FINAL, LL[0] = 42. -/
theorem test_phase_decode :
    after (exec .phaseDecode emptyStreamPrimed)
      (fun t => (t.n, t.origptr, t.finalBlock, llAt t 0, phaseCode t.phase)) =
      some (1#32, 0#32, true, 42#8, 10#4) := by decide +kernel

/-- V-STREAM-4: what ENCODE pushes for "banana" is a prefix of the stream's coded part. -/
theorem test_phase_encode :
    after (exec .phaseEncode bananaSorted)
      (fun t => (phaseCode t.phase, decide (80 ≤ t.bitOut.length),
        t.bitOut == (bitsOf "011111111111111111111111111111011110001100111011111001110111011001011000001000111110000110010100111001001110011100100101111100100000000000000").take t.bitOut.length)) =
      some (6#4, true, true) := by decide +kernel

/-! ## Checksum and models -/

theorem test_crc_init : after (exec .crcInit State.reset) (·.crc) = some 0xFFFFFFFF#32 := by
  decide +kernel

/-- V-CRC-2. -/
theorem test_crc_update :
    after (exec (.crcUpdate 0x61#8) { State.reset with crc := 0xFFFFFFFF#32 }) (·.crc) =
      some 0xE66C6494#32 := by decide +kernel

/-- V-CRC-4, over the nine bytes. -/
theorem test_crc_check_value :
    ~~~ crcOver crcStart [0x31, 0x32, 0x33, 0x34, 0x35, 0x36, 0x37, 0x38, 0x39] = 0xFC891918#32 := by
  decide +kernel

theorem test_crc_final :
    after (exec .crcFinal { State.reset with crc := 0xE66C6494#32 }) (·.result) =
      some [0x19939B6B#32] := by decide +kernel

/-- The parameters of V-MOD-1 on the four-symbol model 2. -/
def smallModel (freq : List Word) (total : Word) : State :=
  { State.reset with
    par := { defaultParams with
      modelInc := [12, 4, 3, 3, 3, 3, 2, 1]
      modelLimit := [1000, 1000, 20, 1000, 1000, 1000, 1000, 1000] }
    models := State.reset.models.set 2 { totFreq := total, freq := freq } }

/-- V-MOD-1: u1 adds to `[9,6,3,3] 21 > 20`, rescale gives `[5,3,2,2] 12`. -/
theorem test_model_update_rescales :
    after (exec (.modelUpdate 2 1) (smallModel [9, 3, 3, 3] 18)) (modelAt · 2) =
      some { totFreq := 12, freq := [5, 3, 2, 2] } := by decide +kernel

/-- V-MOD-1: u3 gives `[5,3,2,5] 15`. -/
theorem test_model_update_adds :
    after (exec (.modelUpdate 2 3) (smallModel [5, 3, 2, 2] 12)) (modelAt · 2) =
      some { totFreq := 15, freq := [5, 3, 2, 5] } := by decide +kernel

/-- V-MOD-1: init `[3,3,3,3] 12`. -/
theorem test_model_init :
    after (exec (.modelInit 2) (smallModel [11, 3, 2, 5] 21)) (modelAt · 2) =
      some { totFreq := 12, freq := [3, 3, 3, 3] } := by decide +kernel

/-- V-MOD-1: `[11,3,2,5] 21` rescales to `[6,2,1,3] 12`. -/
theorem test_model_rescale :
    after (exec (.modelRescale 2) (smallModel [11, 3, 2, 5] 21)) (modelAt · 2) =
      some { totFreq := 12, freq := [6, 2, 1, 3] } := by decide +kernel

/-! ## The coder -/

theorem test_enc_init :
    after (exec .acEncInit { State.reset with l := 5, r := 6, bo := 7 }) (fun t => (t.l, t.r, t.bo)) =
      some (0#32, 33554432#32, 0#32) := by decide +kernel

/-- V-AC-2. -/
theorem test_encode_bogus :
    after (exec (.acEncode 8 1) State.reset) (fun t => (t.l, t.r, t.bo, t.bitOut)) =
      some (33554432#32, 33554432#32, 0#32, bitsOf "00000000") := by decide +kernel

/-- V-AC-1, step 6. -/
theorem test_put_u8 :
    after (exec (.acPutU8 0x80#8) { State.reset with l := 33554432#32 })
      (fun t => (t.l, t.r, t.bitOut)) =
      some (0#32, 33554432#32, bitsOf "11000000") := by decide +kernel

/-- V-AC-5. -/
theorem test_put_u32 :
    after (exec (.acPutU32 0xFFFFFFFF#32) State.reset) (fun t => (t.l, t.r, t.bitOut)) =
      some (33554432#32, 33554432#32, bitsOf "01111111111111111111111111111111") := by
  decide +kernel

/-- R158: `BO = 3`, `b = 1` pushes `1 0 0 0`. -/
theorem test_bit_plus_follow :
    after (exec (.acBitPlusFollow true) { State.reset with bo := 3 }) (fun t => (t.bitOut, t.bo)) =
      some (bitsOf "1000", 0#32) := by decide +kernel

/-- V-AC-4, step 2: case (a), then case (c). -/
theorem test_enc_renorm :
    after (exec .acEncRenorm { State.reset with l := 16777212, r := 5592408 })
      (fun t => (t.l, t.r, t.bo, t.bitOut)) =
      some (33554416#32, 22369632#32, 1#32, [false]) := by decide +kernel

/-- V-AC-3. -/
theorem test_enc_flush :
    after (exec .acEncFlush { State.reset with l := 32019456, bo := 1 })
      (fun t => (t.bitOut, t.bo)) =
      some (bitsOf "011111010001001010000000000", 0#32) := by decide +kernel

/-- V-AC-4: the first 26 bits prime D = 10597324. -/
theorem test_dec_start :
    after (exec .acDecStart { State.reset with
      bitIn := bitsOf "001010000110110011110011001010000000" })
      (fun t => (t.d, t.r, t.bitIn.length)) = some (10597324#32, 33554432#32, 10) := by
  decide +kernel

/-- V-AC-8: `D >= R` is clamped to the last symbol. -/
theorem test_decode_clamps :
    after (exec (.acDecode 8) { primedDecoder with d := 33554432#32 }) (·.result) =
      some [0xFF#32] := by decide +kernel

/-- V-AC-1: the first byte is 00, and D = 3 after it. -/
theorem test_get_u8 :
    after (exec .acGetU8 { primedDecoder with
      bitIn := bitsOf "00000011" })
      (fun t => (t.result, t.d, t.r)) = some ([0#32], 3#32, 33554432#32) := by decide +kernel

/-- V-AC-1: the first four bytes as one word. -/
theorem test_get_u32 :
    after (exec .acGetU32 primedDecoder) (fun t => (t.result, t.r)) =
      some ([1#32], 33554432#32) := by decide +kernel

/-! ## The move-to-front codec -/

theorem test_mtf_init :
    after (exec .mtfInit { State.reset with yy := [] }) (fun t => (t.yy.length, t.yy.take 3)) =
      some (256, [0#8, 1#8, 2#8]) := by decide +kernel

/-- R192: `mtf.rank(97)` on a fresh list. -/
theorem test_mtf_rank :
    after (exec (.mtfRank 97#8) State.reset)
      (fun t => (t.result, t.yy.getD 0 0#8, t.yy.getD 97 0#8, t.yy.getD 98 0#8)) =
      some ([97#32], 97#8, 96#8, 98#8) := by decide +kernel

theorem test_mtf_take :
    after (exec (.mtfTake 97#8) State.reset)
      (fun t => (t.result, t.yy.getD 0 0#8, t.yy.getD 97 0#8)) =
      some ([97#32], 97#8, 96#8) := by decide +kernel

/-- V-ZR-1: 12 is A B A, 16 is A B B B. -/
theorem test_run_strings :
    runDigits 32 12 = [.runa, .runb, .runa] ∧ runDigits 32 16 = [.runa, .runb, .runb, .runb] ∧
      runString 12 = [.runa, .runb, .runa] ∧ runDigits 32 0 = [] := by decide +kernel

/-- V-ZR-1: a run of 4 is RUNA RUNB through BASIS. -/
theorem test_send_zeroes :
    after (exec (.mtfSendZeroes 4#32) State.reset) (fun t => (modelAt t 0).freq.take 3) =
      some [24#32, 24#32, 12#32] := by decide +kernel

/-- V-MTF-2: 97 is `64_127+33`. -/
theorem test_send_val :
    after (exec (.mtfSendVal 97#8) State.reset)
      (fun t => ((modelAt t 0).freq.getD 8 0#32, (modelAt t 6).freq.getD 33 0#32)) =
      some (24#32, 4#32) := by decide +kernel

theorem test_send_eob :
    after (exec .mtfSendEob State.reset) (fun t => (modelAt t 0).freq.getD 10 0#32) =
      some 24#32 := by decide +kernel

/-- R201: the third digit of A B A gives RUNACC = 12, RUNW = 8. -/
theorem test_absorb :
    after (exec (.mtfAbsorb .runa) { receiver with pos := 0, runacc := 4, runw := 4 })
      (fun t => (t.runacc, t.runw, t.fault)) = some (12#32, 8#32, false) := by decide +kernel

/-- V-MTF-4: word 0xFFFFFFFD (mag 3) with N = 2. -/
theorem test_check_origptr_faults :
    after (exec (.mtfCheckOrigptr 3#32) { receiver with n := 2 }) (fun t => (t.err, t.fault)) =
      some (0x15#8, true) := by decide +kernel

/-- R203: `mag = 6`, `N = 6`: ORIGPTR = 5. -/
theorem test_check_origptr :
    after (exec (.mtfCheckOrigptr 6#32) { receiver with n := 6 }) (·.origptr) = some 5#32 := by
  decide +kernel

/-- R104: 0xFFFFFFFA is final, magnitude 6. -/
theorem test_origword :
    after (exec (.streamOrigword 0xFFFFFFFA#32) receiver) (fun t => (t.finalBlock, t.result)) =
      some (true, [6#32]) := by decide +kernel

/-! ## The sorter -/

/-- V-BWT-6. -/
theorem test_bwt_sort :
    after (exec .bwtSort banana) (fun t => (t.zptr, t.origptr)) =
      some (cellsOf [6, 5, 3, 1, 0, 4, 2], 4#32) := by decide +kernel

/-- V-BWT-4: equal rotations by index. -/
theorem test_small_sort_ties :
    after (exec .bwtSmallSort (blockState [97, 98, 97, 98])) (·.zptr) =
      some (cellsOf [0, 2, 1, 3]) := by decide +kernel

/-- V-BWT-13. -/
theorem test_trivial_gt :
    after (exec (.bwtTrivialGt 1#32 3#32) banana) (·.result) = some [1#32] := by decide +kernel

theorem test_full_gt :
    after (exec (.bwtFullGt 3#32 1#32) bananaPadded) (·.result) = some [0#32] := by decide +kernel

theorem test_build_pad :
    after (exec .bwtBuildPad banana) (·.block) = some bananaPadded.block := by decide +kernel

/-- V-BWT-14: `bwt.qsort(2, 3)` orders rotations 1, 3 into 3, 1. -/
theorem test_qsort :
    after (exec (.bwtQsort 2#32 3#32) { bananaPadded with zptr := cellsOf [6, 5, 1, 3, 0, 2, 4] })
      (·.zptr) = some (cellsOf [6, 5, 3, 1, 0, 2, 4]) := by decide +kernel

theorem test_insertion :
    after (exec (.bwtInsertion 0#32 6#32) bananaPadded) (·.zptr) =
      some (cellsOf [6, 5, 3, 1, 0, 4, 2]) := by decide +kernel

/-- The middle one of rotations 6, 0 and 2 of V-BWT-6 is 0. -/
theorem test_median3 :
    after (exec (.bwtMedian3 2#32 6#32 0#32) bananaPadded) (·.result) = some [0#32] := by
  decide +kernel

/-- R233 with the pivot rotation 0: the four places before `i` hold what does not sort after it. -/
theorem test_partition :
    after (exec (.bwtPartition 0#32 6#32 0#32) bananaPadded) (fun t => (t.zptr, t.result)) =
      some (cellsOf [6, 1, 5, 3, 4, 2, 0], [4#32, 3#32]) := by decide +kernel

theorem test_find_origptr :
    after (exec .bwtFindOrigptr { bananaSorted with origptr := 0 }) (·.origptr) = some 4#32 := by
  decide +kernel

/-- The example of R240. -/
theorem test_inverse :
    after (exec .bwtInverse bananaColumn) (fun t => (t.block, t.nextIdx)) =
      some (banana.block, cellsOf [0, 0, 1, 0, 0, 1, 2]) := by decide +kernel

/-! ## RLE1 and the spots -/

/-- R265: "aaaab" becomes `61 61 61 61 00 62 2A`. -/
theorem test_load :
    after (exec .rle1Load (loaderState [97, 97, 97, 97, 98]))
      (fun t => (t.n, t.block, t.finalBlock, t.srcEod)) =
      some (7#32, cellsOf [97, 97, 97, 97, 0, 98, 42], true, true) := by decide +kernel

/-- R267: `61 61 61 61 08 2A`, final, pushes twelve bytes, acc 055EA165 (V-CRC-5). -/
theorem test_unload :
    after (exec .rle1Unload { blockState [97, 97, 97, 97, 8, 42] with
      finalBlock := true, crc := crcStart }) (fun t => (t.byteOut, t.crc)) =
      some (List.replicate 12 97#8, 0x055EA165#32) := by decide +kernel

/-- R269: four equal bytes before the sentinel and no count. -/
theorem test_unload_missing_count :
    after (exec .phaseUnrle { blockState [97, 97, 97, 97, 42] with
      finalBlock := true, phase := .unrle }) (fun t => (t.err, t.byteOut.length, t.phase)) =
      some (0x16#8, 4, .unrle) := by decide +kernel

/-- R275: `BLOCK[8000] = 0xFF` becomes 0x00 under `delta = +1`; N = 8002 has this one spot. -/
theorem test_spot_wraps :
    after (exec (.spotApply .plus) { State.reset with n := 8002, block := [(8000, 0xFF#8)] })
      (fun t => (t.block, t.spos)) = some ([], 15915#32) := by decide +kernel

/-- R276: N = 8001 has no spot. -/
theorem test_spot_stops :
    after (exec .phaseUnspot { State.reset with
      n := 8001, block := [(8000, 42#8)], phase := .unspot })
      (fun t => (t.block, t.phase)) = some ([(8000, 42#8)], .unrle) := by decide +kernel

/-- R277: the positions numbered 0 to 5 and 12, 23. -/
theorem test_spot_positions :
    [0, 1, 2, 3, 4, 5, 12, 23].map spotPos =
      [8000, 15915, 23898, 31915, 39847, 47847, 103813, 191745] := by decide +kernel

theorem test_rle1_units :
    after (exec (.rle1Long 97#8 8#8) { blockState [] with pos := 0 }) (fun t => (t.block, t.pos)) =
        some (cellsOf [97, 97, 97, 97, 8], 5#32) ∧
      after (exec (.rle1Short 98#8 2#2) receiver) (·.byteOut) = some [98#8, 98#8] ∧
      after (exec .rle1Sentinel (blockState [])) (fun t => (t.block, t.finalBlock)) =
        some ([(0, 42#8)], true) := by decide +kernel

/-! ## The opcode table's words as the first instruction after reset -/

theorem test_first_instruction_compress :
    after (step (State.reset.withFetchWord 32 0x00000101)) (·.phase) = some .headerC := by
  decide +kernel

theorem test_first_instruction_phase :
    after (step (State.reset.withFetchWord 8 0x02)) (·.busy) = some true := by decide +kernel

theorem test_first_instruction_fault :
    after (step (State.reset.withFetchWord 8 0x14)) (·.err) = some 0x14#8 := by decide +kernel

/-! ## Witnesses: a state and operands for the hypotheses of each statement -/

theorem reset_modelsOk : modelsOk State.reset := modelsOk_of_check (by decide +kernel)

theorem reset_rangeOk : rangeOk State.reset := by unfold rangeOk; decide

theorem witness_DecodeUndoesEncode :
    Instr.wellFormed (.compress 9#4) = true ∧
      encode (.compress 9#4) = some (.cmd 0x00000901#32) ∧
      Instr.wellFormed (.rle1Short 97#8 3#2) = true ∧
      encode (.rle1Short 97#8 3#2) = some (.unit [97#8, 97#8, 97#8]) := by decide

theorem witness_EncodeUndoesDecode :
    decode (.phase 13#4) = .ok .phaseTrailerD ∧
      decode (.unit [97#8, 97#8]) = .ok (.rle1Short 97#8 2#2) := by decide

/-- The first and last legal words and their illegal neighbours. -/
theorem witness_LegalWords :
    (0x00000101 % 256 = 1 ∧ 1 ≤ 0x00000101 / 256 ∧ 0x00000901 / 256 ≤ 9 ∧
      ¬ (0x00000A01 / 256 ≤ 9) ∧ ¬ (1 ≤ 0x00000001 / 256)) ∧
    ((0x425A3031#32).toNat = 0x425A3031 ∧ ¬ 0x425A3031 ≤ (0x425A3030#32).toNat ∧
      ¬ (0x425A303A#32).toNat ≤ 0x425A3039) := by decide

theorem witness_StepPerformsTheDecodedInstruction :
    (∃ (s : State) (rest : List HostEvent), s.host = .write 0 2#32 :: rest ∧ decode (.cmd 2#32) = .ok .decompress) ∧
    (∃ s : State, s.host = [] ∧ s.fault = false ∧ s.latch = some (.sentinel 42#8) ∧
      decode (.sentinel 42#8) = .ok .rle1Sentinel) ∧
    (banana.host = [] ∧ banana.fault = false ∧ banana.latch = none ∧ banana.busy = true ∧
      decode (.phase (phaseCode banana.phase)) = .ok .phaseSort) ∧
    (State.reset.host = [] ∧ State.reset.fault = false ∧ State.reset.latch = none ∧
      State.reset.busy = false) :=
  ⟨⟨{ State.reset with host := [.write 0 2#32] }, [], rfl, by decide⟩,
    ⟨{ State.reset with latch := some (.sentinel 42#8) }, rfl, rfl, rfl, by decide⟩,
    by decide +kernel, by decide⟩

/-- A busy core and an idle one; the ends of the level range; an illegal word. -/
theorem witness_CommandAcceptance :
    banana.busy = true ∧ State.reset.busy = false ∧ State.reset.fault = false ∧
      (1 ≤ (1#4).toNat ∧ (9#4).toNat ≤ 9 ∧ ¬ (1 ≤ (0#4).toNat) ∧ ¬ (10#4).toNat ≤ 9) ∧
      decode (.cmd 0x00000003#32) = .error .cmdUnknownOp ∧
      ({ State.reset with host := [.write 0 0x00000003#32] } : State).busy = false ∧
      ({ banana with host := [.write 0 0x00000003#32] } : State).busy = true := by decide

/-- After a run that left bits in its port and one that read its EOD, each with the next stream fed after the
command and before it; a stream that takes no more items. -/
theorem witness_OneRunOneStream :
    (∀ host, host = [HostEvent.write 0 0x101#32, .feedBytes [7#8] true] ∨
        host = [.feedBytes [7#8] true, .write 0 0x101#32] →
      ∃ s : State, s.busy = false ∧ s.fault = false ∧ s.byteInLater = [] ∧ s.byteInGiven = true ∧
        s.byteInEod = true ∧ s.host = host) ∧
    (∀ host, host = [HostEvent.write 0 2#32, .feedBits [true] false] ∨
        host = [.feedBits [true] false, .write 0 2#32] →
      ∃ s : State, s.busy = false ∧ s.fault = false ∧ s.bitInLater = [] ∧ s.bitInGiven = true ∧
        s.bitIn = [false] ∧ s.host = host) ∧
    decode (.cmd 0x101#32) = .ok (.compress 1#4) ∧ decode (.cmd 2#32) = .ok .decompress ∧
    (∃ t, step (loaderState [1, 2, 3]) = .next t ∧ t.byteIn = []) ∧
    (loaderState [1, 2, 3]).host = [] ∧ (loaderState [1, 2, 3]).latch = none ∧
    streamsGiven { loaderState [1, 2, 3] with byteInGiven := true } :=
  ⟨fun host _ => ⟨{ State.reset with byteInGiven := true, byteInEod := true, host := host }, rfl, rfl,
      rfl, rfl, rfl, rfl⟩,
    fun host _ => ⟨{ State.reset with bitInGiven := true, bitIn := [false], host := host }, rfl, rfl,
      rfl, rfl, rfl, rfl⟩,
    by decide, by decide, exists_of_after (f := fun t : State => t.byteIn) (by decide +kernel), rfl, rfl,
    ⟨fun _ _ => rfl, fun _ h => by cases h⟩⟩

theorem witness_InertSequencer :
    ({ State.reset with fault := true } : State).host = [] ∧
      ({ State.reset with fault := true } : State).fault = true ∧
      State.reset.busy = false ∧ State.reset.latch = none := by decide

theorem witness_HostReads :
    ∃ s : State, s.host = [.read 6] ∧ s.busy = false :=
  ⟨{ State.reset with host := [.read 6] }, rfl, rfl⟩

/-- A block to load, and a full decoded block of level 9 to push. -/
theorem witness_LegalStatesNeverStop :
    legalState (loaderState [1, 2, 3]) ∧
      legalState { State.reset with
        busy := true, mode := .decompress, phase := .unrle, level := 9#4, n := 900000#32 } :=
  ⟨⟨by unfold arraysOk; decide, List.Perm.refl _, modelsOk_of_check (by decide +kernel),
      fun _ => reset_rangeOk, by decide, fun _ => (by decide : _ ∧ _), rfl, rfl⟩,
    by unfold arraysOk; decide, List.Perm.refl _, reset_modelsOk, fun _ => reset_rangeOk, by decide,
    fun _ => ⟨(by decide : _ ∧ _), by decide, by decide⟩, rfl, rfl⟩

theorem witness_AbortResets :
    ∃ s : State, s.host = .reset :: [] := ⟨{ State.reset with host := [.reset] }, rfl⟩

theorem witness_AbortLeavesAPrefix :
    ∃ s t : State, s.host = .abortAfter 3 :: [] ∧ step { s with host := [] } = .next t ∧
      t.bitOut.length = 32 := by
  obtain ⟨t, h1, h2⟩ := exists_of_after (f := fun t : State => t.bitOut.length) (x := 32)
    (o := step { State.reset with
      busy := true, mode := .compress, phase := .headerC, level := 1#4 }) (by decide +kernel)
  exact ⟨{ State.reset with
    busy := true, mode := .compress, phase := .headerC, level := 1#4, host := [.abortAfter 3] },
    t, rfl, h1, h2⟩

theorem witness_OnlyAbortAndResetClearFault :
    ∃ s t : State, s.fault = true ∧ step s = .next t :=
  ⟨{ State.reset with fault := true }, _, rfl, rfl⟩

/-- A step that works: LOAD_RLE of three bytes, from a state that meets every invariant. -/
theorem witness_StepKeepsInvariants :
    arraysOk (loaderState [1, 2, 3]) ∧ flagsExclusive (loaderState [1, 2, 3]) ∧
      sequencerOk (loaderState [1, 2, 3]) ∧ listOk (loaderState [1, 2, 3]) ∧
      modelsOk (loaderState [1, 2, 3]) ∧ rangeOk (loaderState [1, 2, 3]) ∧
      ∃ t, step (loaderState [1, 2, 3]) = .next t ∧ (t.fault, t.n) = (false, 4#32) :=
  ⟨by unfold arraysOk; decide, by unfold flagsExclusive; decide, by unfold sequencerOk; decide,
    List.Perm.refl _, modelsOk_of_check (by decide +kernel), reset_rangeOk,
    exists_of_after (by decide +kernel)⟩

theorem witness_FaultsAreTaken :
    (Instr.faultTruncated, FaultCode.truncated, 0x11#8) ∈ faultRows := by decide

theorem witness_PhaseTransitions :
    phaseSuccessor .encode true = some .trailerC ∧ phaseSuccessor .encode false = some .loadRle ∧
      State.reset.phase = .idle ∧
      ({ State.reset with phase := .trailerD } : State).phase = .trailerD := by decide

theorem witness_HeaderCPushesTheMagic :
    ({ State.reset with level := 9#4 } : State).level.toNat ≤ State.reset.par.maxLevel ∧
      State.reset.par.maxLevel < ({ State.reset with level := 10#4 } : State).level.toNat := by
  decide

/-- The magic of level 9 before 26 bits and of level 1 before 25, ended and paused; a bad magic; a level above MAX_LEVEL = 8; 31 bits. -/
theorem witness_HeaderDReadsTheMagic :
    (∃ (s : State) (w : Word) (prime rest : List Bool), s.bitIn = wordBits w ++ prime ++ rest ∧
      0x425A3031 ≤ w.toNat ∧ w.toNat ≤ 0x425A3039 ∧ w.toNat - 0x425A3030 ≤ s.par.maxLevel ∧
      prime.length = 26) ∧
    (∃ (s : State) (w : Word) (prime : List Bool), s.bitIn = wordBits w ++ prime ++ [] ∧
      0x425A3031 ≤ w.toNat ∧ w.toNat ≤ 0x425A3039 ∧ w.toNat - 0x425A3030 ≤ s.par.maxLevel ∧
      prime.length < 26 ∧ s.bitInEod = true) ∧
    (∃ (s : State) (w : Word) (prime : List Bool), s.bitIn = wordBits w ++ prime ++ [] ∧
      0x425A3031 ≤ w.toNat ∧ w.toNat ≤ 0x425A3039 ∧ w.toNat - 0x425A3030 ≤ s.par.maxLevel ∧
      prime.length < 26 ∧ s.bitInEod = false) ∧
    (∃ (s : State) (w : Word) (rest : List Bool), s.bitIn = wordBits w ++ rest ∧
      ¬ (0x425A3031 ≤ w.toNat ∧ w.toNat ≤ 0x425A3039)) ∧
    (∃ (s : State) (w : Word) (rest : List Bool), s.bitIn = wordBits w ++ rest ∧
      0x425A3031 ≤ w.toNat ∧ w.toNat ≤ 0x425A3039 ∧ s.par.maxLevel < w.toNat - 0x425A3030) ∧
    (∃ s : State, s.bitIn.length < 32 ∧ s.bitInEod = true) ∧
    (∃ s : State, s.bitIn.length < 32 ∧ s.bitInEod = false) :=
  ⟨⟨{ State.reset with bitIn := wordBits 0x425A3039#32 ++ List.replicate 26 false ++ [] },
      0x425A3039#32, List.replicate 26 false, [], rfl, by decide⟩,
    ⟨{ State.reset with
        bitIn := wordBits 0x425A3031#32 ++ List.replicate 25 true ++ [], bitInEod := true },
      0x425A3031#32, List.replicate 25 true, rfl, by decide⟩,
    ⟨{ State.reset with bitIn := wordBits 0x425A3031#32 ++ List.replicate 25 true ++ [] },
      0x425A3031#32, List.replicate 25 true, rfl, by decide⟩,
    ⟨{ State.reset with bitIn := wordBits 0x425A303A#32 ++ [] }, 0x425A303A#32, [], rfl, by decide⟩,
    ⟨{ State.reset with
        bitIn := wordBits 0x425A3039#32 ++ [], par := { defaultParams with maxLevel := 8 } },
      0x425A3039#32, [], rfl, by decide⟩,
    ⟨{ State.reset with bitIn := List.replicate 31 true, bitInEod := true }, by decide⟩,
    ⟨State.reset, by decide⟩⟩

theorem witness_LoadBuildsTheBlock :
    (paramsLegal (loaderState [1]).par = true ∧ arraysOk (loaderState [1]) ∧
      1 ≤ (loaderState [1]).level.toNat ∧
      (loaderState [1]).level.toNat ≤ (loaderState [1]).par.maxLevel ∧
      (loaderState [1]).srcEod = false ∧ (loaderState [1]).byteInEod = true) ∧
    51 * capOf (loaderState []) + 256 ≤
      ({ loaderState [] with byteIn := List.replicate 5100256 97#8 } : State).byteIn.length :=
  ⟨⟨by decide, by unfold arraysOk; decide, by decide, by decide, rfl, rfl⟩, by
    rw [List.length_replicate]; decide⟩

/-- A block to push whole, one without its sentinel, one without a count. -/
theorem witness_UnloadExpandsTheBlock :
    (∃ s : State, paramsLegal s.par = true ∧ s.n.toNat ≤ capMax s.par ∧ s.finalBlock = true ∧
      1 ≤ s.n.toNat ∧ arrGet (w := 8) s.block (s.n.toNat - 1) = 42#8 ∧
      expandUnits 0 0#8 (unitBytesOf s) = ([97, 97, 97, 97, 97], true)) ∧
    (∃ s : State, paramsLegal s.par = true ∧ s.n.toNat ≤ capMax s.par ∧ s.finalBlock = true ∧
      1 ≤ s.n.toNat ∧ arrGet (w := 8) s.block (s.n.toNat - 1) ≠ 42#8) ∧
    (∃ s : State, paramsLegal s.par = true ∧ s.n.toNat ≤ capMax s.par ∧ s.finalBlock = false ∧
      expandUnits 0 0#8 (unitBytesOf s) = ([97, 97, 97, 97], false)) :=
  ⟨⟨{ blockState [97, 97, 97, 97, 1, 42] with finalBlock := true }, by decide +kernel⟩,
    ⟨{ blockState [41] with finalBlock := true }, by decide +kernel⟩,
    ⟨blockState [97, 97, 97, 97], by decide +kernel⟩⟩

theorem witness_LoadThenUnloadRestoresTheInput :
    paramsLegal (loaderState []).par = true ∧ arraysOk (loaderState []) ∧
      1 ≤ (loaderState []).level.toNat ∧
      (loaderState []).level.toNat ≤ (loaderState []).par.maxLevel ∧
      (loaderState []).srcEod = false ∧ (loaderState []).byteInEod = true :=
  ⟨by decide, by unfold arraysOk; decide, by decide, by decide, rfl, rfl⟩

/-- A block whose last position but one is a spot. -/
def oneSpot : State := { State.reset with n := 8002#32, block := [(8000, 0xFF#8), (8001, 42#8)] }

theorem witness_SpotVisitsItsPositions :
    paramsLegal oneSpot.par = true ∧ arraysOk oneSpot ∧ oneSpot.n.toNat ≤ capMax oneSpot.par ∧
      spotPos 0 + 1 < oneSpot.n.toNat ∧ ∀ q, q < 1 → (8001 ≠ spotPos q) :=
  ⟨by decide, by unfold arraysOk; decide, by decide, by decide, by decide⟩

theorem witness_SpotSymmetry :
    paramsLegal oneSpot.par = true ∧ arraysOk oneSpot ∧ oneSpot.n.toNat ≤ capMax oneSpot.par ∧
      ∃ t, exec (.spotApply .plus) oneSpot = .next t ∧ t.block = [(8001, 42#8)] :=
  ⟨by decide, by unfold arraysOk; decide, by decide,
    exists_of_after (f := fun t : State => t.block) (by decide +kernel)⟩

theorem bananaPadded_padded : padded bananaPadded := by unfold padded; decide +kernel

theorem witness_ComparatorsDecideRotationOrder :
    (1#32).toNat < bananaPadded.n.toNat ∧ (6#32).toNat < bananaPadded.n.toNat ∧
      bananaPadded.n.toNat ≤ blockSize bananaPadded ∧
      bananaPadded.n.toNat ≤ capMax bananaPadded.par ∧ padded bananaPadded :=
  ⟨by decide, by decide, by decide, by decide, bananaPadded_padded⟩

theorem witness_SmallSortMeetsContract :
    paramsLegal banana.par = true ∧ arraysOk banana ∧ banana.n.toNat ≤ capMax banana.par :=
  ⟨by decide, by unfold arraysOk; decide +kernel, by decide⟩

theorem witness_BucketSortMeetsContract :
    paramsLegal sixteen.par = true ∧ arraysOk sixteen ∧ sixteen.qstack = [] ∧
      16 ≤ sixteen.n.toNat ∧ sixteen.n.toNat ≤ capMax sixteen.par :=
  ⟨by decide, by unfold arraysOk; decide +kernel, rfl, by decide, by decide⟩

theorem witness_SortMeetsItsContract :
    (paramsLegal banana.par = true ∧ arraysOk banana ∧ banana.qstack = [] ∧
      banana.n.toNat ≤ capMax banana.par ∧ 1 ≤ banana.n.toNat ∧ banana.n.toNat ≤ 1024) ∧
    (arraysOk (blockState []) ∧ (blockState []).n.toNat = 0) :=
  ⟨⟨by decide, by unfold arraysOk; decide +kernel, rfl, by decide, by decide, by decide⟩,
    by unfold arraysOk; decide, by decide⟩

theorem witness_BuildPadCopiesTheStart :
    paramsLegal (blockState [42]).par = true ∧ arraysOk (blockState [42]) ∧
      1 ≤ (blockState [42]).n.toNat ∧ (blockState [42]).n.toNat ≤ capMax (blockState [42]).par :=
  ⟨by decide, by unfold arraysOk; decide +kernel, by decide, by decide⟩

/-- A range of one element and the whole block; the pivot is one of its elements. -/
theorem witness_ranges :
    paramsLegal bananaPadded.par = true ∧ arraysOk bananaPadded ∧ padded bananaPadded ∧
      bananaPadded.qstack = [] ∧ bananaPadded.n.toNat ≤ capMax bananaPadded.par ∧
      (6#32).toNat < capMax bananaPadded.par ∧
      startsBelow bananaPadded 0 7 ∧ startsBelow bananaPadded 6 7 ∧
      (zptrSlice bananaPadded 0 7).Nodup ∧ (3#32).toNat ∈ zptrSlice bananaPadded 0 7 :=
  ⟨by decide, by unfold arraysOk; decide +kernel, bananaPadded_padded, rfl, by decide, by decide,
    by unfold startsBelow; decide +kernel, by unfold startsBelow; decide +kernel,
    by decide +kernel, by decide +kernel⟩

theorem witness_Median3ReturnsTheMiddle :
    padded bananaPadded ∧ bananaPadded.n.toNat ≤ capMax bananaPadded.par ∧
      (0#32).toNat < bananaPadded.n.toNat ∧ (6#32).toNat < bananaPadded.n.toNat :=
  ⟨bananaPadded_padded, by decide, by decide, by decide⟩

theorem witness_FindOrigptrFindsRotationZero :
    (bananaSorted.n.toNat ≤ capMax bananaSorted.par ∧ 4 < bananaSorted.n.toNat ∧
      zptrAt bananaSorted 4 = 0 ∧ ∀ j, j < 4 → zptrAt bananaSorted j ≠ 0) ∧
    (∀ k, k < ({ banana with zptr := cellsOf [1, 2, 3, 4, 5, 6, 1] } : State).n.toNat →
      zptrAt { banana with zptr := cellsOf [1, 2, 3, 4, 5, 6, 1] } k ≠ 0) := by decide +kernel

theorem witness_InverseWalksTheColumn :
    (paramsLegal bananaColumn.par = true ∧ arraysOk bananaColumn ∧
      bananaColumn.n.toNat ≤ capMax bananaColumn.par ∧
      bananaColumn.origptr.toNat < bananaColumn.n.toNat) ∧
    (∃ s : State, arraysOk s ∧ 1 ≤ s.n.toNat ∧ s.n.toNat ≤ s.origptr.toNat) ∧
    (∃ s : State, arraysOk s ∧ s.n.toNat = 0) :=
  ⟨⟨by decide, by unfold arraysOk; decide +kernel, by decide, by decide⟩,
    ⟨{ State.reset with n := 1#32, origptr := 1#32 }, by unfold arraysOk; decide, by decide, by decide⟩,
    ⟨State.reset, by unfold arraysOk; decide, rfl⟩⟩

theorem witness_SortThenInverseRestoresTheBlock :
    paramsLegal banana.par = true ∧ arraysOk banana ∧ banana.qstack = [] ∧ 1 ≤ banana.n.toNat ∧
      banana.n.toNat ≤ capMax banana.par ∧ paramsLegal bananaColumn.par = true ∧
      arraysOk bananaColumn ∧ bananaColumn.n.toNat ≤ capMax bananaColumn.par ∧
      ∃ t, exec .bwtSort banana = .next t ∧
        decide (bananaColumn.n = t.n ∧ bananaColumn.origptr = t.origptr ∧
          (List.range bananaColumn.n.toNat).map (llAt bananaColumn) = lastColumnOf t) = true :=
  ⟨by decide, by unfold arraysOk; decide +kernel, rfl, by decide, by decide, by decide,
    by unfold arraysOk; decide +kernel, by decide, exists_of_after (by decide +kernel)⟩

/-- A symbol inside each kind of model and one outside; the totals on both sides of the limit. -/
theorem witness_ModelOperations :
    (modelsOk State.reset ∧ 10 < numSymbols 0 ∧ numSymbols 0 ≤ 11 ∧
      incOf State.reset.par 8 = 0 ∧ incOf State.reset.par 0 ≠ 0 ∧
      (modelAt State.reset 0).totFreq.toNat + incOf State.reset.par 0 ≤ limitOf State.reset.par 0) ∧
    (modelsOk (smallModel [9, 3, 3, 3] 18) ∧ incOf (smallModel [9, 3, 3, 3] 18).par 2 ≠ 0 ∧
      limitOf (smallModel [9, 3, 3, 3] 18).par 2 <
        (modelAt (smallModel [9, 3, 3, 3] 18) 2).totFreq.toNat +
          incOf (smallModel [9, 3, 3, 3] 18).par 2) :=
  ⟨⟨reset_modelsOk, by decide, by decide, by decide, by decide, by decide +kernel⟩,
    modelsOk_of_check (by decide +kernel), by decide, by decide +kernel⟩

/-- R at 1 and at QUARTER, the interval against the top; BO at BO_LIMIT. -/
theorem witness_RenormScalesTheInterval :
    (∃ s : State, s.r = 1#32 ∧ 1 ≤ s.r.toNat ∧ s.r ≤ half ∧ s.l.toNat + s.r.toNat ≤ 2 ^ 26 ∧
      s.bo.toNat + 25 ≤ boLimit.toNat) ∧
    (∃ s : State, s.r = half ∧ 1 ≤ s.r.toNat ∧ s.l.toNat + s.r.toNat = 2 ^ 26) ∧
    (∃ s : State, s.r ≤ quarter ∧ s.l < half ∧ half.toNat < s.l.toNat + s.r.toNat ∧
      s.bo = boLimit) :=
  ⟨⟨{ State.reset with r := 1#32, l := 67108863#32, bo := 499999975#32 }, by decide⟩,
    ⟨{ State.reset with l := 33554432#32 }, by decide⟩,
    ⟨{ State.reset with r := 16777216#32, l := 33554431#32, bo := 500000000#32 }, by decide⟩⟩

theorem witness_EncodeTakesTheSymbolsPart :
    modelsOk State.reset ∧ 255 < numSymbols 8 ∧ encoderOk 1 State.reset ∧
      encoderOk 1 { State.reset with l := 33554432#32, bo := 499999975#32 } :=
  ⟨reset_modelsOk, by decide, by unfold encoderOk rangeOk; decide,
    by unfold encoderOk rangeOk; decide⟩

theorem witness_SendsAreEncodings :
    modelsOk State.reset ∧ encoderOk 32 State.reset ∧ encoderOk 4 State.reset ∧
      encoderOk 2 State.reset ∧ 255#8 ≠ 0#8 ∧ State.reset.mode ≠ .decompress ∧
      (Instr.basisEob, 10) ∈ basisRows :=
  ⟨reset_modelsOk, by unfold encoderOk rangeOk; decide, by unfold encoderOk rangeOk; decide,
    by unfold encoderOk rangeOk; decide, by decide, by decide, by decide⟩

theorem witness_EncodeBlockSendsTheBlock :
    paramsLegal bananaSorted.par = true ∧ bananaSorted.n.toNat ≤ capMax bananaSorted.par ∧
      startsBelow bananaSorted 0 bananaSorted.n.toNat ∧
      encoderOk (2 * bananaSorted.n.toNat + 5) bananaSorted :=
  ⟨by decide, by decide, by unfold startsBelow; decide +kernel,
    by unfold encoderOk rangeOk; decide⟩

theorem witness_TrailersCarryTheChecksum :
    modelsOk State.reset ∧ encoderOk 4 State.reset ∧
      ∃ u, decodeItems [bogusModel, bogusModel, bogusModel, bogusModel] primedDecoder =
        .ok ((wordItems 1#32).map Prod.snd) u ∧ u.fault = false :=
  ⟨reset_modelsOk, by unfold encoderOk rangeOk; decide,
    exists_of_decoded (f := fun u : State => u.fault) (by decide +kernel)⟩

theorem witness_DecStartPrimesTheDecoder :
    26 ≤ ({ State.reset with bitIn := List.replicate 26 true } : State).bitIn.length ∧
      ({ State.reset with bitIn := List.replicate 25 true } : State).bitIn.length < 26 ∧
      ({ State.reset with bitInEod := true } : State).bitInEod = true ∧
      State.reset.bitInEod = false := by decide

theorem witness_DecodeReturnsTheSymbol :
    modelsOk { primedDecoder with bitIn := List.replicate 25 true } ∧
      rangeOk { primedDecoder with bitIn := List.replicate 25 true } ∧
      25 ≤ ({ primedDecoder with bitIn := List.replicate 25 true } : State).bitIn.length ∧
      primedDecoder.d < primedDecoder.r :=
  ⟨modelsOk_of_check (by decide +kernel), reset_rangeOk, by decide, by decide⟩

theorem witness_IntegersAreRead :
    modelsOk { State.reset with bitIn := List.replicate 100 false } ∧
      rangeOk { State.reset with bitIn := List.replicate 100 false } ∧
      100 ≤ ({ State.reset with bitIn := List.replicate 100 false } : State).bitIn.length ∧
      ({ State.reset with bitInEod := true } : State).bitIn = [] :=
  ⟨modelsOk_of_check (by decide +kernel), reset_rangeOk, by decide, rfl⟩

theorem witness_DecoderFollowsEncoder :
    modelsOk State.reset ∧ (∀ item ∈ [((0 : ModelId), 10), (8, 255)], itemOk item) ∧
      25 * [((0 : ModelId), 10), (8, 255)].length ≤ boLimit.toNat :=
  ⟨reset_modelsOk, by
    intro item h
    simp only [List.mem_cons, List.not_mem_nil, or_false] at h
    rcases h with rfl | rfl <;> (unfold itemOk; decide), by decide⟩

theorem witness_ListOperations : listOk State.reset := List.Perm.refl _

/-- A digit that just fits and one that does not; a run; magnitudes at both ends. -/
theorem witness_RunDigitsAndOrigptr :
    ({ receiver with pos := 99990#32 } : State).pos.toNat + (2#32 + 2#32 * 4#32).toNat ≤
        capOf receiver ∧
      capOf receiver <
        ({ receiver with pos := 99991#32 } : State).pos.toNat + (2#32 + 2#32 * 4#32).toNat ∧
      ({ receiver with runacc := 0#32, runw := 1#32 } : State).pos.toNat + 99997 ≤
        capOf receiver ∧
      (7#32 ≠ 0#32 ∧ (7#32).toNat - 1 < bananaColumn.n.toNat ∧
        bananaColumn.n.toNat ≤ (8#32).toNat - 1) := by decide

/-- The receiver with a run that just fits and no room for a value after it. -/
def fullReceiver : State := { receiver with pos := 99998#32 }

theorem witness_BasisSymbolsAreReceived :
    paramsLegal receiver.par = true ∧ arraysOk receiver ∧ listOk receiver ∧
      receiver.mode = .decompress ∧ receiver.level.toNat ≤ receiver.par.maxLevel ∧
      receiver.pos.toNat + receiver.runacc.toNat + 1 ≤ capOf receiver ∧
      ((Instr.basis128To255, 7 + 2) ∈ basisRows ∧ (Instr.basis2To3, 1 + 2) ∈ basisRows) ∧
      modelsOk receiver ∧ rangeOk receiver ∧ 25 ≤ receiver.bitIn.length ∧
      (paramsLegal fullReceiver.par = true ∧ arraysOk fullReceiver ∧ listOk fullReceiver ∧
        fullReceiver.pos.toNat + fullReceiver.runacc.toNat = capOf fullReceiver ∧
        modelsOk fullReceiver ∧ rangeOk fullReceiver ∧ 25 ≤ fullReceiver.bitIn.length) :=
  ⟨by decide, by unfold arraysOk; decide, List.Perm.refl _, rfl, by decide, by decide, by decide,
    modelsOk_of_check (by decide +kernel), reset_rangeOk, by decide,
    by decide, by unfold arraysOk; decide, List.Perm.refl _, by decide,
    modelsOk_of_check (by decide +kernel), reset_rangeOk, by decide⟩

theorem witness_StreamAndBlockItems :
    (paramsLegal banana.par = true ∧ arraysOk banana ∧ banana.mode ≠ .decompress ∧
      banana.pos.toNat + 5 ≤ blockSize banana ∧
      ({ banana with pos := 900013#32 } : State).pos.toNat + (3#2).toNat ≤ blockSize banana ∧
      ({ banana with pos := 900015#32 } : State).pos.toNat + 1 ≤ blockSize banana) ∧
    (paramsLegal receiver.par = true ∧ arraysOk receiver ∧ receiver.mode = .decompress ∧
      (1 ≤ (1#4).toNat ∧ (9#4).toNat ≤ 9) ∧ ¬ (1 ≤ (10#4).toNat ∧ (10#4).toNat ≤ 9)) :=
  ⟨⟨by decide, by unfold arraysOk; decide +kernel, by decide, by decide, by decide, by decide⟩,
    by decide, by unfold arraysOk; decide, rfl, by decide, by decide⟩

/-- The empty input's block (V-STREAM-1) as the decoder reads it: word 0xFFFFFFFF, column `[42]`; and the
same column after the word 0, which is corrupt (V-MTF-4). -/
theorem witness_DecodeBlockRestoresTheColumn :
    blockString [(0, 0), (0, 1), (0, 9), (7, 127), (0, 10)] = true ∧ paramsLegal emptyStreamPrimed.par = true ∧ arraysOk emptyStreamPrimed ∧
      emptyStreamPrimed.level.toNat ≤ emptyStreamPrimed.par.maxLevel ∧
      [42#8].length ≤ capOf emptyStreamPrimed ∧
      (∃ u, decodeItems ((blockItems 0xFFFFFFFF#32 [42#8]).map Prod.fst)
          { emptyStreamPrimed with models := initialModels emptyStreamPrimed.par } =
        .ok ((blockItems 0xFFFFFFFF#32 [42#8]).map Prod.snd) u ∧ u.fault = false) ∧
      (0#32 - 0xFFFFFFFF#32 ≠ 0#32 ∧ (0#32 - 0xFFFFFFFF#32).toNat - 1 < [42#8].length) ∧
      (∃ u, decodeItems ((blockItems 0#32 [42#8]).map Prod.fst)
          { emptyStreamPrimed with
            models := initialModels emptyStreamPrimed.par, d := 0#32
            bitIn := bitsOf "00000001010101011011001001010110111010000000" } =
        .ok ((blockItems 0#32 [42#8]).map Prod.snd) u ∧ u.fault = false) :=
  ⟨by decide, by decide, by unfold arraysOk; decide, by decide, by decide,
    exists_of_decoded (f := fun u : State => u.fault) (by decide +kernel), by decide,
    exists_of_decoded (f := fun u : State => u.fault) (by decide +kernel)⟩

end Sys2Proof.Tests
end

/-! PROOFS. What a sequencer operation can do to the state, said once: `OpUpdate` lists the single updates, and
every operation keeps every property that survives them (`Stable`). -/
section
namespace Sys2Proof.Machine

variable {α β : Type} {P : State → Prop}

/-! ## The rules of `Keeps`, packed

The structure keeps Lean from running an operation while it looks at a statement about it. -/

/-- `op` keeps `P`. -/
structure Preserves (P : State → Prop) (op : Seq α) : Prop where
  keeps : Keeps P op

theorem Preserves.pure (a : α) : Preserves P (pure a) := ⟨keeps_pure P a⟩

theorem Preserves.bind {x : Seq α} {f : α → Seq β} (hx : Preserves P x)
    (hf : ∀ a, Preserves P (f a)) : Preserves P (x >>= f) :=
  ⟨keeps_bind hx.keeps fun a => (hf a).keeps⟩

/-- The state that is read meets `P`, so the rest may use that of what it read. -/
theorem Preserves.get {f : State → Seq β} (h : ∀ s, P s → Preserves P (f s)) :
    Preserves P ((get : Seq State) >>= f) :=
  ⟨keeps_get_bind fun s hs => (h s hs).keeps s hs⟩

theorem Preserves.set {t : State} (h : P t) : Preserves P (set t : Seq Unit) := ⟨fun _ _ => h⟩

theorem Preserves.modify {f : State → State} (h : ∀ s, P s → P (f s)) :
    Preserves P (modify f : Seq Unit) := ⟨keeps_modify h⟩

theorem Preserves.raise (f : FaultCode) : Preserves P (raise f : Seq α) := ⟨keeps_raise P f⟩

theorem Preserves.defect (f : Fault) : Preserves P (defect f : Seq α) := ⟨keeps_defect P f⟩

theorem Preserves.wait : Preserves P (throw .wait : Seq α) := ⟨keeps_wait P⟩

theorem Preserves.outside (r : Refusal) : Preserves P (throw (.outside r) : Seq α) := ⟨keeps_outside P r⟩

theorem Preserves.ite {c : Prop} [Decidable c] {x y : Seq α} (hx : Preserves P x)
    (hy : Preserves P y) : Preserves P (if c then x else y) := ⟨keeps_ite hx.keeps hy.keeps⟩

/-- A check in the middle of an operation: `if c then x; rest`. -/
theorem Preserves.check {c : Prop} [Decidable c] {x : Seq Unit} {f : Unit → Seq β}
    (hx : Preserves P x) (hf : Preserves P (f ())) : Preserves P (if c then x >>= f else f ()) :=
  .ite (.bind hx fun _ => hf) hf

theorem Preserves.loopUp {body : Nat → Seq Unit} (h : ∀ i, Preserves P (body i)) (k i : Nat) :
    Preserves P (loopUp body i k) := ⟨keeps_loopUp (fun i => (h i).keeps) k i⟩

theorem Preserves.loopDown {body : Nat → Seq Unit} (h : ∀ i, Preserves P (body i)) (k : Nat) :
    Preserves P (loopDown body k) := ⟨keeps_loopDown (fun i => (h i).keeps) k⟩

theorem Preserves.repeatTimes {body : Seq Unit} (h : Preserves P body) (k : Nat) :
    Preserves P (repeatTimes body k) := ⟨keeps_repeatTimes h.keeps k⟩

/-- An index out of range stops the model, whatever would follow. -/
theorem Preserves.out_of_range {i size : Nat} (h : ¬ i < size) (f : Unit → Seq β) :
    Preserves P (checkIndex i size >>= f) := by
  refine ⟨fun s _ => ?_⟩
  rw [seq_bind, checkIndex_of_not_lt h]
  trivial

theorem Preserves.checkIndex (i size : Nat) : Preserves P (checkIndex i size) :=
  ⟨keeps_checkIndex P i size⟩

/-- An item of a run, kept in both directions. -/
theorem Preserves.sendOrReceive {x y : Seq Unit} (hx : Preserves P x) (hy : Preserves P y) :
    Preserves P (sendOrReceive x y) :=
  .get fun _ _ => .ite hy hx

/-! ## Operations that only read -/

theorem Preserves.readBlock (i : Nat) : Preserves P (readBlock i) :=
  .get fun _ _ => .bind (.checkIndex _ _) fun _ => .pure _

theorem Preserves.readZptr (i : Nat) : Preserves P (readZptr i) :=
  .get fun _ _ => .bind (.checkIndex _ _) fun _ => .pure _

theorem Preserves.readLl (i : Nat) : Preserves P (readLl i) :=
  .get fun _ _ => .bind (.checkIndex _ _) fun _ => .pure _

theorem Preserves.readNext (i : Nat) : Preserves P (readNext i) :=
  .get fun _ _ => .bind (.checkIndex _ _) fun _ => .pure _

theorem Preserves.readFtab (i : Nat) : Preserves P (readFtab i) :=
  .bind (.checkIndex _ _) fun _ => .get fun _ _ => .pure _

theorem Preserves.readCc (b : Byte) : Preserves P (readCc b) :=
  .get fun _ _ => .pure _

theorem Preserves.crcFinalOp : Preserves P crcFinalOp :=
  .get fun _ _ => .pure _

theorem Preserves.readModel (m : ModelId) : Preserves P (readModel m) :=
  .get fun _ _ => .pure _

theorem Preserves.checkSymbol (m : ModelId) (sym : Nat) :
    Preserves P (checkSymbol m sym) :=
  .ite (.pure _) (.raise _)

theorem Preserves.lastColumn (k : Nat) : Preserves P (lastColumn k) :=
  .get fun _ _ => .bind (.readZptr _) fun _ => .readBlock _

theorem Preserves.crcReceived (w : Word) : Preserves P (crcReceived w) :=
  .bind .crcFinalOp fun _ => .ite (.raise _) (.pure _)

theorem Preserves.trivialGtOp (a b : Word) : Preserves P (trivialGtOp a b) :=
  .get fun _ _ => .bind (.checkIndex _ _) fun _ => .pure _

theorem Preserves.fullGtOp (a b : Word) : Preserves P (fullGtOp a b) :=
  .get fun _ _ => .bind (.checkIndex _ _) fun _ => .bind (.checkIndex _ _) fun _ =>
    .bind (.checkIndex _ _) fun _ => .pure _

theorem Preserves.median3Op (a b c : Word) : Preserves P (median3Op a b c) :=
  .bind (.fullGtOp _ _) fun _ => .bind (.fullGtOp _ _) fun _ =>
    .ite (.bind (.fullGtOp _ _) fun _ => .pure _) (.pure _)

theorem Preserves.scanUp (p : Word) : ∀ fuel i, Preserves P (scanUp p fuel i)
  | 0, _ => .defect _
  | fuel + 1, i => .bind (.readZptr _) fun _ => .bind (.fullGtOp _ _) fun _ =>
      .ite (.scanUp p fuel (i + 1)) (.pure _)

theorem Preserves.scanDown (p : Word) : ∀ j, Preserves P (scanDown p j)
  | 0 => .bind (.readZptr _) fun _ => .bind (.fullGtOp _ _) fun _ =>
      .ite (.defect _) (.pure _)
  | j + 1 => .bind (.readZptr _) fun _ => .bind (.fullGtOp _ _) fun _ =>
      .ite (.scanDown p j) (.pure _)

theorem Preserves.pairOp (i : Nat) : Preserves P (pairOp i) :=
  .get fun _ _ => .bind (.checkIndex _ _) fun _ => .pure _

/-! ## The updates operations are made of -/

/-- One update that a sequencer operation makes.  BUSY, DONE, FAULT, MODE, PHASE, ERR, the host's side and
the built parameters stay; YY changes only by `mtf.init` and by moving one of its entries to the front. -/
inductive OpUpdate (s : State) : State → Prop where
  /-- The data registers, which operations write with any value. -/
  | registers (level finalBlock crc n origptr l r bo d laValid laByte srcEod zp runacc runw spos sidx
      models qstack pos result) :
    OpUpdate s { s with
      level := level, finalBlock := finalBlock, crc := crc, n := n, origptr := origptr
      l := l, r := r, bo := bo, d := d, laValid := laValid, laByte := laByte, srcEod := srcEod
      zp := zp, runacc := runacc, runw := runw, spos := spos, sidx := sidx, models := models
      qstack := qstack, pos := pos, result := result }
  | block (i v) : OpUpdate s { s with block := arrSet (w := 8) s.block i v }
  | zptr (i v) : OpUpdate s { s with zptr := arrSet s.zptr i v }
  | ll (i v) : OpUpdate s { s with ll := arrSet (w := 8) s.ll i v }
  | nextIdx (i v) : OpUpdate s { s with nextIdx := arrSet s.nextIdx i v }
  | ftab (i v) : OpUpdate s { s with ftab := arrSet s.ftab i v }
  | cc (i v) : OpUpdate s { s with cc := arrSet s.cc i v }
  /-- `mtf.init` (R191). -/
  | listInit : OpUpdate s { s with yy := initialList }
  /-- The entry `b` at rank `j` comes to the front (R192, R199). -/
  | listMove (j b) (h : s.yy[j]? = some b) : OpUpdate s { s with yy := moveToFront s.yy j b }
  /-- A byte pulled and counted in CRC (R64). -/
  | pullByte (b rest crc) (h : s.byteIn = b :: rest) :
    OpUpdate s { s with byteIn := rest, crc := crc }
  /-- A bit pulled (R66). -/
  | pullBit (b rest) (h : s.bitIn = b :: rest) : OpUpdate s { s with bitIn := rest }
  /-- Bits pushed; BO may change with them (R65, R158). -/
  | pushBits (bits bo) : OpUpdate s { s with bitOut := s.bitOut ++ bits, bo := bo }
  /-- Bytes pushed and counted in CRC (R67). -/
  | pushBytes (bytes crc) : OpUpdate s { s with byteOut := s.byteOut ++ bytes, crc := crc }

/-- `P` survives every update an operation is made of. -/
def Stable (P : State → Prop) : Prop := ∀ ⦃s t⦄, OpUpdate s t → P s → P t

/-- What operations can make of a state. -/
def OpReach : State → State → Prop := Relation.ReflTransGen OpUpdate

theorem stable_opReach (s : State) : Stable (OpReach s) := fun _ _ hu h => h.tail hu

theorem OpReach.keeps (hP : Stable P) {s t : State} (h : OpReach s t) (hs : P s) : P t := by
  induction h with
  | refl => exact hs
  | tail _ hu ih => exact hP hu ih

/-! ## Every operation keeps every stable property -/

namespace Stable

variable (hP : Stable P)
include hP

/-! ### Arrays -/

theorem preserves_writeBlock (i : Nat) (v : Byte) : Preserves P (writeBlock i v) :=
  .get fun _ _ => .bind (.checkIndex _ _) fun _ => .modify fun _ => hP (.block ..)

theorem preserves_writeZptr (i : Nat) (v : Word) : Preserves P (writeZptr i v) :=
  .get fun _ _ => .bind (.checkIndex _ _) fun _ => .modify fun _ => hP (.zptr ..)

theorem preserves_writeLl (i : Nat) (v : Byte) : Preserves P (writeLl i v) :=
  .get fun _ _ => .bind (.checkIndex _ _) fun _ => .modify fun _ => hP (.ll ..)

theorem preserves_writeNext (i : Nat) (v : Word) : Preserves P (writeNext i v) :=
  .get fun _ _ => .bind (.checkIndex _ _) fun _ => .modify fun _ => hP (.nextIdx ..)

theorem preserves_writeFtab (i : Nat) (v : Word) : Preserves P (writeFtab i v) :=
  .bind (.checkIndex _ _) fun _ => .modify fun _ => hP (.ftab ..)

theorem preserves_writeCc (b : Byte) (v : Word) : Preserves P (writeCc b v) :=
  .modify fun _ => hP (.cc ..)

/-! ### Checksum and ports -/

theorem preserves_crcInitOp : Preserves P crcInitOp := .modify fun _ => hP (.registers ..)

theorem preserves_crcUpdateOp (b : Byte) : Preserves P (crcUpdateOp b) :=
  .modify fun _ => hP (.registers ..)

theorem preserves_pullByte : Preserves P pullByte :=
  .get fun s hs => by
    split
    next b rest h => exact .bind (.set (hP (.pullByte b rest _ h) hs)) fun _ => .pure _
    next => exact .ite (.pure _) .wait

theorem preserves_pullBit : Preserves P pullBit :=
  .get fun s hs => by
    split
    next b rest h => exact .bind (.set (hP (.pullBit b rest h) hs)) fun _ => .pure _
    next => exact .ite (.raise _) .wait

theorem preserves_pushBits (bits : List Bool) : Preserves P (pushBits bits) :=
  .modify fun _ => hP (.pushBits ..)

theorem preserves_pushByte (b : Byte) : Preserves P (pushByte b) :=
  .modify fun _ => hP (.pushBytes ..)

theorem preserves_pullWordBits : ∀ k w, Preserves P (pullWordBits k w)
  | 0, _ => .pure _
  | k + 1, _ => .bind hP.preserves_pullBit fun _ => preserves_pullWordBits k _

/-! ### Models -/

theorem preserves_writeModel (m : ModelId) (fm : FreqModel) : Preserves P (writeModel m fm) :=
  .modify fun _ => hP (.registers ..)

theorem preserves_modelInitOp (m : ModelId) : Preserves P (modelInitOp m) :=
  .get fun _ _ => hP.preserves_writeModel m _

theorem preserves_modelRescaleOp (m : ModelId) : Preserves P (modelRescaleOp m) :=
  .bind (.readModel m) fun _ => hP.preserves_writeModel m _

theorem preserves_modelUpdateOp (m : ModelId) (sym : Nat) : Preserves P (modelUpdateOp m sym) :=
  .bind (.checkSymbol m sym) fun _ => .get fun _ _ =>
    .bind (.readModel m) fun _ => hP.preserves_writeModel m _

theorem preserves_initAllModels : Preserves P initAllModels := .modify fun _ => hP (.registers ..)

/-! ### Coder -/

theorem preserves_encInitOp : Preserves P encInitOp := .modify fun _ => hP (.registers ..)

theorem preserves_bitPlusFollowOp (b : Bool) : Preserves P (bitPlusFollowOp b) :=
  .modify fun _ => hP (.pushBits ..)

theorem preserves_encShiftOp : Preserves P encShiftOp := .modify fun _ => hP (.registers ..)

theorem preserves_encDecideOp : Preserves P encDecideOp :=
  .get fun _ hs => .ite (hP.preserves_bitPlusFollowOp false) <|
    .ite (.bind (.set (hP (.registers ..) hs)) fun _ => hP.preserves_bitPlusFollowOp true) <|
      .bind (.set (hP (.registers ..) hs)) fun _ =>
        .ite (.raise _) (.pure _)

theorem preserves_encRenormLoop : ∀ fuel, Preserves P (encRenormLoop fuel)
  | 0 => .defect _
  | fuel + 1 => .get fun _ _ =>
      .ite (.bind hP.preserves_encDecideOp fun _ => .bind hP.preserves_encShiftOp fun _ =>
        preserves_encRenormLoop fuel) (.pure _)

theorem preserves_encRenormOp : Preserves P encRenormOp := hP.preserves_encRenormLoop 32

theorem preserves_encNarrowOp (fm : FreqModel) (sym : Nat) : Preserves P (encNarrowOp fm sym) := by
  unfold encNarrowOp
  refine .check (.defect _) ?_
  exact .modify fun _ => hP (.registers ..)

theorem preserves_encodeOp (m : ModelId) (sym : Nat) : Preserves P (encodeOp m sym) :=
  .bind (.checkSymbol m sym) fun _ => .bind (.readModel m) fun fm =>
    .bind (hP.preserves_encNarrowOp fm sym) fun _ => .bind hP.preserves_encRenormOp fun _ =>
      hP.preserves_modelUpdateOp m sym

theorem preserves_encFlushOp : Preserves P encFlushOp := by
  unfold encFlushOp
  refine .loopDown (fun i => ?_) _
  exact .get fun _ _ => hP.preserves_bitPlusFollowOp _

theorem preserves_decStartOp : Preserves P decStartOp := by
  unfold decStartOp
  refine .bind (.modify fun _ => hP (.registers ..)) fun _ => ?_
  refine .loopUp (fun _ => ?_) _ _
  exact .bind hP.preserves_pullBit fun _ => .modify fun _ => hP (.registers ..)

theorem preserves_decRenormLoop : ∀ fuel, Preserves P (decRenormLoop fuel)
  | 0 => .defect _
  | fuel + 1 => .get fun _ _ =>
      .ite (.bind hP.preserves_pullBit fun _ =>
        .bind (.modify fun _ => hP (.registers ..)) fun _ => preserves_decRenormLoop fuel)
        (.pure _)

theorem preserves_decRenormOp : Preserves P decRenormOp :=
  .get fun _ _ => hP.preserves_decRenormLoop _

theorem preserves_decodeOp (m : ModelId) : Preserves P (decodeOp m) := by
  unfold decodeOp
  refine .bind (.readModel m) fun fm => .get fun s hs => ?_
  refine .check (.defect _) ?_
  refine .check (.defect _) ?_
  split
  next => exact .raise _
  next sym low f _ =>
    exact .bind (.set (hP (.registers ..) hs)) fun _ =>
      .bind hP.preserves_decRenormOp fun _ => .bind (hP.preserves_modelUpdateOp m sym) fun _ =>
        .pure _

theorem preserves_putU8Op (b : Byte) : Preserves P (putU8Op b) :=
  hP.preserves_encodeOp bogusModel b.toNat

theorem preserves_putU32Op (w : Word) : Preserves P (putU32Op w) :=
  .bind (hP.preserves_putU8Op _) fun _ => .bind (hP.preserves_putU8Op _) fun _ =>
    .bind (hP.preserves_putU8Op _) fun _ => hP.preserves_putU8Op _

theorem preserves_getU8Op : Preserves P getU8Op :=
  .bind (hP.preserves_decodeOp bogusModel) fun _ => .pure _

theorem preserves_getU32Op : Preserves P getU32Op :=
  .bind hP.preserves_getU8Op fun _ => .bind hP.preserves_getU8Op fun _ =>
    .bind hP.preserves_getU8Op fun _ => .bind hP.preserves_getU8Op fun _ => .pure _

/-! ### The move-to-front codec -/

theorem preserves_mtfInitOp : Preserves P mtfInitOp := .modify fun _ => hP .listInit

/-- Only an entry of the list comes to its front: the index check stands before the move. -/
theorem preserves_mtfRankOp (b : Byte) : Preserves P (mtfRankOp b) :=
  .get fun s hs => by
    by_cases h : s.yy.idxOf b < s.yy.length
    · have hb : s.yy[s.yy.idxOf b]? = some b := by simp [List.getElem?_eq_getElem h]
      exact .bind (.checkIndex _ _) fun _ =>
        .bind (.set (hP (.listMove _ b hb) hs)) fun _ => .pure _
    · exact .out_of_range h _

theorem preserves_mtfTakeOp (v : Nat) : Preserves P (mtfTakeOp v) :=
  .get fun s hs => by
    by_cases h : v < s.yy.length
    · have hb : s.yy[v]? = some (s.yy.getD v 0#8) := by simp [h]
      exact .bind (.checkIndex _ _) fun _ =>
        .bind (.set (hP (.listMove v _ hb) hs)) fun _ => .pure _
    · exact .out_of_range h _

theorem preserves_sendDigits : ∀ digits, Preserves P (sendDigits digits)
  | [] => .pure _
  | _ :: rest => .bind (hP.preserves_encodeOp _ _) fun _ => preserves_sendDigits rest

theorem preserves_sendZeroesOp (k : Word) : Preserves P (sendZeroesOp k) :=
  hP.preserves_sendDigits _

theorem preserves_sendValOp (v : Nat) : Preserves P (sendValOp v) :=
  .ite (.outside _) <| .ite (hP.preserves_encodeOp _ _) <|
    .bind (hP.preserves_encodeOp _ _) fun _ => hP.preserves_encodeOp _ _

theorem preserves_sendEobOp : Preserves P sendEobOp := hP.preserves_encodeOp _ _

theorem preserves_flushZpOp : Preserves P flushZpOp :=
  .get fun _ _ => .bind (hP.preserves_sendZeroesOp _) fun _ =>
    .modify fun _ => hP (.registers ..)

theorem preserves_encodePass (k : Nat) : Preserves P (encodePass k) :=
  .bind (.lastColumn k) fun _ => .bind (hP.preserves_mtfRankOp _) fun _ =>
    .ite (.modify fun _ => hP (.registers ..)) <|
      .bind hP.preserves_flushZpOp fun _ => hP.preserves_sendValOp _

theorem preserves_encodeBlockOp : Preserves P encodeBlockOp :=
  .bind hP.preserves_initAllModels fun _ => .bind hP.preserves_mtfInitOp fun _ =>
    .bind (.modify fun _ => hP (.registers ..)) fun _ => .get fun _ _ =>
      .bind (hP.preserves_putU32Op _) fun _ => .bind (.loopUp hP.preserves_encodePass _ _) fun _ =>
        .bind hP.preserves_flushZpOp fun _ => hP.preserves_sendEobOp

theorem preserves_absorbOp (d : RunDigit) : Preserves P (absorbOp d) :=
  .bind (.modify fun _ => hP (.registers ..)) fun _ => .get fun _ _ =>
    .ite (.raise _) (.pure _)

theorem preserves_appendLl (b : Byte) : Preserves P (appendLl b) :=
  .get fun _ _ => .bind (hP.preserves_writeLl _ _) fun _ =>
    .modify fun _ => hP (.registers ..)

theorem preserves_flushRunOp : Preserves P flushRunOp :=
  .get fun _ _ => .ite (.pure _) <|
    .bind (.repeatTimes (hP.preserves_appendLl _) _) fun _ =>
      .modify fun _ => hP (.registers ..)

theorem preserves_storeValueOp (v : Nat) : Preserves P (storeValueOp v) := by
  unfold storeValueOp
  refine .get fun s hs => ?_
  refine .check (.raise _) ?_
  exact .bind (hP.preserves_mtfTakeOp v) fun _ => hP.preserves_appendLl _

theorem preserves_basisReceived (sym : Nat) : Preserves P (basisReceived sym) :=
  .ite (.bind (hP.preserves_absorbOp _) fun _ => .pure _) <|
    .ite (.bind (hP.preserves_absorbOp _) fun _ => .pure _) <|
      .bind hP.preserves_flushRunOp fun _ => .ite (.pure _) <|
        .ite (.bind (hP.preserves_storeValueOp _) fun _ => .pure _) <|
          .bind (hP.preserves_decodeOp _) fun _ => .bind (hP.preserves_storeValueOp _) fun _ =>
            .pure _

theorem preserves_decodeLoop : ∀ fuel, Preserves P (decodeLoop fuel)
  | 0 => .defect _
  | fuel + 1 => .bind (hP.preserves_decodeOp _) fun _ =>
      .bind (hP.preserves_basisReceived _) fun _ => .ite (.pure _) (preserves_decodeLoop fuel)

theorem preserves_origwordReceived (w : Word) : Preserves P (origwordReceived w) :=
  .bind (.modify fun _ => hP (.registers ..)) fun _ => .pure _

theorem preserves_checkOrigptrOp (mag : Word) : Preserves P (checkOrigptrOp mag) :=
  .get fun _ _ => .ite (.raise _) (.modify fun _ => hP (.registers ..))

theorem preserves_decodeBlockOp : Preserves P decodeBlockOp :=
  .bind hP.preserves_initAllModels fun _ => .bind hP.preserves_mtfInitOp fun _ =>
    .bind (.modify fun _ => hP (.registers ..)) fun _ => .bind hP.preserves_getU32Op fun _ =>
      .bind (hP.preserves_origwordReceived _) fun _ => .get fun _ _ =>
        .bind (hP.preserves_decodeLoop _) fun _ =>
          .bind (.modify fun _ => hP (.registers ..)) fun _ => hP.preserves_checkOrigptrOp _

/-! ### The block sorter -/

theorem preserves_shellSink (h : Nat) (v : Word) : ∀ fuel j, Preserves P (shellSink h v fuel j)
  | 0, _ => .defect _
  | fuel + 1, j => .ite (.bind (.readZptr _) fun _ =>
      .bind (.trivialGtOp _ _) fun _ =>
        .ite (.bind (hP.preserves_writeZptr _ _) fun _ => preserves_shellSink h v fuel (j - h))
          (.pure _)) (.pure _)

theorem preserves_shellStep (h i : Nat) : Preserves P (shellStep h i) :=
  .bind (.readZptr _) fun v => .bind (hP.preserves_shellSink h v _ _) fun _ =>
    hP.preserves_writeZptr _ _

theorem preserves_shellPasses (n : Nat) : ∀ increments, Preserves P (shellPasses n increments)
  | [] => .pure _
  | h :: rest => by
    rw [shellPasses]
    exact .check (.loopUp (hP.preserves_shellStep h) _ _) (preserves_shellPasses n rest)

theorem preserves_smallSortOp : Preserves P smallSortOp :=
  .get fun _ _ => .bind (.loopUp (fun _ => hP.preserves_writeZptr _ _) _ _) fun _ =>
    hP.preserves_shellPasses _ _

theorem preserves_buildPadOp : Preserves P buildPadOp :=
  .get fun _ _ => .loopUp (fun _ => .bind (.readBlock _) fun _ =>
    hP.preserves_writeBlock _ _) _ _

theorem preserves_exchangeZptr (i j : Nat) : Preserves P (exchangeZptr i j) :=
  .bind (.readZptr _) fun _ => .bind (.readZptr _) fun _ =>
    .bind (hP.preserves_writeZptr _ _) fun _ => hP.preserves_writeZptr _ _

theorem preserves_partitionLoop (p : Word) : ∀ fuel i j, Preserves P (partitionLoop p fuel i j)
  | 0, _, _ => .defect _
  | fuel + 1, _, _ => .get fun _ _ => .bind (.scanUp p _ _) fun i =>
      .bind (.scanDown p _) fun j =>
        .ite (.bind (hP.preserves_exchangeZptr i j) fun _ =>
          .ite (preserves_partitionLoop p fuel (i + 1) (j - 1)) (.pure _)) (.pure _)

theorem preserves_partitionOp (lo hi p : Word) : Preserves P (partitionOp lo hi p) :=
  hP.preserves_partitionLoop p _ _ _

theorem preserves_insertSink (lo : Nat) (v : Word) : ∀ j, Preserves P (insertSink lo v j)
  | 0 => .pure _
  | j + 1 => .ite (.bind (.readZptr _) fun _ =>
      .bind (.fullGtOp _ _) fun _ =>
        .ite (.bind (hP.preserves_writeZptr _ _) fun _ => preserves_insertSink lo v j)
          (.pure _)) (.pure _)

theorem preserves_insertStep (lo i : Nat) : Preserves P (insertStep lo i) :=
  .bind (.readZptr _) fun v => .bind (hP.preserves_insertSink lo v i) fun _ =>
    hP.preserves_writeZptr _ _

theorem preserves_insertionOp (lo hi : Word) : Preserves P (insertionOp lo hi) :=
  .loopUp (hP.preserves_insertStep _) _ _

theorem preserves_pushRange (first second : Int) : Preserves P (pushRange first second) :=
  .ite (.modify fun _ => hP (.registers ..)) (.pure _)

theorem preserves_qsortRange (lo hi : Word) : Preserves P (qsortRange lo hi) :=
  .ite (hP.preserves_insertionOp lo hi) <|
    .bind (.readZptr _) fun _ => .bind (.readZptr _) fun _ =>
      .bind (.readZptr _) fun _ => .bind (.median3Op _ _ _) fun _ =>
        .bind (hP.preserves_partitionOp _ _ _) fun _ =>
          .ite (.bind (hP.preserves_pushRange _ _) fun _ => hP.preserves_pushRange _ _)
            (.bind (hP.preserves_pushRange _ _) fun _ => hP.preserves_pushRange _ _)

theorem preserves_qsortLoop : ∀ fuel, Preserves P (qsortLoop fuel)
  | 0 => .defect _
  | fuel + 1 => .get fun s hs => by
      split
      next => exact .pure _
      next lo hi rest _ =>
        exact .bind (.set (hP (.registers ..) hs)) fun _ =>
          .bind (hP.preserves_qsortRange lo hi) fun _ => preserves_qsortLoop fuel

theorem preserves_qsortOp (lo hi : Word) : Preserves P (qsortOp lo hi) :=
  .bind (.modify fun _ => hP (.registers ..)) fun _ => .get fun _ _ =>
    hP.preserves_qsortLoop _

theorem preserves_bucketFillOp : Preserves P bucketFillOp := by
  unfold bucketFillOp
  refine .get fun s _ => .bind (.loopUp (fun j => ?clear) _ _) fun _ =>
    .bind (.loopUp (fun i => ?count) _ _) fun _ =>
    .bind (.loopUp (fun j => ?ends) _ _) fun _ =>
    .bind (hP.preserves_writeFtab _ _) fun _ => .loopDown (fun i => ?fill) _
  case clear => exact hP.preserves_writeFtab _ _
  case count =>
    exact .bind (.pairOp _) fun _ => .bind (.readFtab _) fun _ =>
      hP.preserves_writeFtab _ _
  case ends =>
    exact .bind (.readFtab _) fun _ => .bind (.readFtab _) fun _ =>
      hP.preserves_writeFtab _ _
  case fill =>
    exact .bind (.pairOp _) fun _ => .bind (.readFtab _) fun _ =>
      .bind (hP.preserves_writeFtab _ _) fun _ => hP.preserves_writeZptr _ _

theorem preserves_sortBucket (j : Nat) : Preserves P (sortBucket j) :=
  .bind (.readFtab _) fun _ => .bind (.readFtab _) fun _ =>
    .ite (hP.preserves_qsortOp _ _) (.pure _)

theorem preserves_bucketSortOp : Preserves P bucketSortOp := by
  unfold bucketSortOp
  refine .bind hP.preserves_buildPadOp fun _ => .bind hP.preserves_bucketFillOp fun _ =>
    .loopUp (fun j => ?_) _ _
  exact hP.preserves_sortBucket j

theorem preserves_findOrigptrFrom : ∀ fuel k, Preserves P (findOrigptrFrom k fuel)
  | 0, _ => .raise _
  | fuel + 1, k => .bind (.readZptr _) fun _ =>
      .ite (.modify fun _ => hP (.registers ..)) (preserves_findOrigptrFrom fuel (k + 1))

theorem preserves_findOrigptrOp : Preserves P findOrigptrOp :=
  .get fun _ _ => hP.preserves_findOrigptrFrom _ _

theorem preserves_sortOp : Preserves P sortOp := by
  unfold sortOp
  exact .get fun _ _ =>
    .ite (.bind hP.preserves_smallSortOp fun _ => hP.preserves_findOrigptrOp)
      (.bind hP.preserves_bucketSortOp fun _ => hP.preserves_findOrigptrOp)

theorem preserves_inverseCount (i : Nat) : Preserves P (inverseCount i) :=
  .bind (.readLl _) fun _ => .bind (.readCc _) fun _ =>
    .bind (hP.preserves_writeNext _ _) fun _ => hP.preserves_writeCc _ _

theorem preserves_inversePrefix : ∀ fuel v sum, Preserves P (inversePrefix v fuel sum)
  | 0, _, _ => .pure _
  | fuel + 1, v, _ => .bind (.readCc _) fun _ => .bind (hP.preserves_writeCc _ _) fun _ =>
      preserves_inversePrefix fuel (v + 1) _

theorem preserves_inverseWalk : ∀ j i, Preserves P (inverseWalk j i)
  | 0, _ => .pure _
  | j + 1, i => by
    rw [inverseWalk]
    refine .get fun s _ => ?_
    refine .check (.raise _) ?_
    exact .bind (.readLl _) fun _ => .bind (hP.preserves_writeBlock _ _) fun _ =>
      .bind (.readNext _) fun _ => .bind (.readCc _) fun _ =>
        preserves_inverseWalk j _

theorem preserves_inverseOp : Preserves P inverseOp := by
  unfold inverseOp
  refine .get fun s _ => .bind (.loopUp (fun v => ?_) _ _) fun _ =>
    .bind (.loopUp hP.preserves_inverseCount _ _) fun _ =>
      .bind (hP.preserves_inversePrefix _ _ _) fun _ => hP.preserves_inverseWalk _ _
  exact hP.preserves_writeCc _ _

/-! ### RLE1 and the spots -/

theorem preserves_appendBlock (b : Byte) : Preserves P (appendBlock b) :=
  .get fun _ _ => .bind (hP.preserves_writeBlock _ _) fun _ =>
    .modify fun _ => hP (.registers ..)

theorem preserves_emitShortOp (c : Byte) (r : Nat) : Preserves P (emitShortOp c r) :=
  .repeatTimes (hP.preserves_appendBlock c) r

theorem preserves_emitLongOp (c count : Byte) : Preserves P (emitLongOp c count) :=
  .bind (.repeatTimes (hP.preserves_appendBlock c) _) fun _ => hP.preserves_appendBlock count

theorem preserves_emitSentinelOp : Preserves P emitSentinelOp :=
  .bind (hP.preserves_appendBlock _) fun _ => .modify fun _ => hP (.registers ..)

theorem preserves_emitRunOp (c : Byte) (run : Nat) : Preserves P (emitRunOp c run) :=
  .ite (hP.preserves_emitShortOp _ _) (hP.preserves_emitLongOp _ _)

theorem preserves_firstOfRun : Preserves P firstOfRun :=
  .get fun _ hs => .ite
    (.bind (.set (hP (.registers ..) hs)) fun _ => .pure _) <|
    .bind hP.preserves_pullByte fun
      | some _ => .pure _
      | none => .bind (.modify fun _ => hP (.registers ..)) fun _ => .pure _

theorem preserves_extendRun (c : Byte) : ∀ room run, Preserves P (extendRun c room run)
  | 0, _ => .pure _
  | room + 1, run => .bind hP.preserves_pullByte fun
      | none => .bind (.modify fun _ => hP (.registers ..)) fun _ => .pure _
      | some _ => .ite (preserves_extendRun c room (run + 1)) <|
          .bind (.modify fun _ => hP (.registers ..)) fun _ => .pure _

theorem preserves_loadPass : Preserves P loadPass :=
  .get fun _ _ => .ite (.pure _) <|
    .bind hP.preserves_firstOfRun fun
      | none => .bind hP.preserves_emitSentinelOp fun _ => .pure _
      | some c => .bind (hP.preserves_extendRun c _ _) fun _ =>
          .bind (hP.preserves_emitRunOp c _) fun _ => .get fun _ _ =>
            .ite (.bind hP.preserves_emitSentinelOp fun _ => .pure _) (.pure _)

theorem preserves_loadLoop : ∀ fuel, Preserves P (loadLoop fuel)
  | 0 => .defect _
  | fuel + 1 => .bind hP.preserves_loadPass fun _ =>
      .ite (.pure _) (preserves_loadLoop fuel)

theorem preserves_loadOp : Preserves P loadOp :=
  .bind (.modify fun _ => hP (.registers ..)) fun _ => .get fun _ _ =>
    .bind (hP.preserves_loadLoop _) fun _ => .modify fun _ => hP (.registers ..)

theorem preserves_unloadLoop (m : Nat) :
    ∀ fuel i cnt prev, Preserves P (unloadLoop m fuel i cnt prev)
  | 0, _, _, _ => .pure _
  | fuel + 1, i, cnt, prev => by
    rw [unloadLoop]
    refine .ite (.pure _) (.bind (.readBlock _) fun b =>
      .bind (hP.preserves_pushByte b) fun _ => .ite ?_ (preserves_unloadLoop m fuel _ _ _))
    refine .check (.raise _) ?_
    exact .bind (.readBlock _) fun _ =>
      .bind (.repeatTimes (hP.preserves_pushByte _) _) fun _ => preserves_unloadLoop m fuel _ _ _

theorem preserves_unloadOp : Preserves P unloadOp := by
  unfold unloadOp
  refine .get fun s _ => .ite ?_ (hP.preserves_unloadLoop _ _ _ _ _)
  refine .bind (.checkIndex _ _) fun _ => .bind (.readBlock _) fun _ => ?_
  exact .check (.raise _) (hP.preserves_unloadLoop _ _ _ _ _)

theorem preserves_spotVisit (delta : SpotDelta) : Preserves P (spotVisit delta) :=
  .get fun _ _ => .bind (.readBlock _) fun _ =>
    .bind (hP.preserves_writeBlock _ _) fun _ => .modify fun _ => hP (.registers ..)

theorem preserves_spotLoop (delta : SpotDelta) : ∀ fuel, Preserves P (spotLoop delta fuel)
  | 0 => .defect _
  | fuel + 1 => .get fun _ _ =>
      .ite (.bind (hP.preserves_spotVisit delta) fun _ => preserves_spotLoop delta fuel)
        (.pure _)

theorem preserves_spotApplyOp (delta : SpotDelta) : Preserves P (spotApplyOp delta) :=
  .bind (.modify fun _ => hP (.registers ..)) fun _ => .get fun _ _ =>
    hP.preserves_spotLoop delta _

/-! ### Stream items and phases -/

theorem preserves_basisOp (sym : Nat) : Preserves P (basisOp sym) :=
  .sendOrReceive (hP.preserves_encodeOp _ _) <|
    .bind (hP.preserves_basisReceived sym) fun _ => .pure _

theorem preserves_magicSent (lvl : BitVec 4) : Preserves P (magicSent lvl) :=
  hP.preserves_pushBits _

theorem preserves_magicReceived (w : Word) : Preserves P (magicReceived w) := by
  unfold magicReceived
  refine .check (.raise _) ?_
  refine .check (.raise _) ?_
  refine .check (.raise _) ?_
  exact .bind (.modify fun _ => hP (.registers ..)) fun _ => .get fun _ _ =>
    .ite (.raise _) (.pure _)

theorem preserves_unitReceived (c : Byte) (copies : Nat) : Preserves P (unitReceived c copies) :=
  .repeatTimes (hP.preserves_pushByte c) copies

theorem preserves_headerCOp : Preserves P headerCOp := by
  unfold headerCOp
  refine .get fun s _ => ?_
  refine .check (.raise _) ?_
  exact .bind hP.preserves_crcInitOp fun _ =>
    .bind (.modify fun _ => hP (.registers ..)) fun _ =>
      .bind hP.preserves_encInitOp fun _ => .get fun _ _ => hP.preserves_magicSent _

theorem preserves_trailerCOp : Preserves P trailerCOp :=
  .bind .crcFinalOp fun _ => .bind (hP.preserves_putU32Op _) fun _ =>
    hP.preserves_encFlushOp

theorem preserves_headerDOp : Preserves P headerDOp := by
  unfold headerDOp
  exact .bind (hP.preserves_pullWordBits _ _) fun _ => .bind (hP.preserves_magicReceived _) fun _ =>
    .bind hP.preserves_crcInitOp fun _ => hP.preserves_decStartOp

theorem preserves_trailerDOp : Preserves P trailerDOp :=
  .bind hP.preserves_getU32Op fun _ => .crcReceived _

end Stable

end Sys2Proof.Machine
end

/-! PROOFS. What one step can do, said once: `step_cases` lists the ways a step ends, and `step_keeps` carries
an invariant through all of them. -/
section
namespace Sys2Proof.Machine

/-! ## What the host's and the environment's acts change outside the core -/

/-- `t` is `s` but for the host's side, the model's latch and the input ports. -/
def SameCore (s t : State) : Prop :=
  t = { s with
    host := t.host, hostData := t.hostData, freeCount := t.freeCount, latch := t.latch
    byteIn := t.byteIn, byteInEod := t.byteInEod, byteInGiven := t.byteInGiven
    byteInLater := t.byteInLater
    bitIn := t.bitIn, bitInEod := t.bitInEod, bitInGiven := t.bitInGiven
    bitInLater := t.bitInLater }

theorem readDataReg_frame (v : Word) (s : State) :
    readDataReg v s = { s with
      hostData := (readDataReg v s).hostData, freeCount := (readDataReg v s).freeCount } := by
  unfold readDataReg
  split <;> rfl

/-- A host read writes the word read and the count of free words, nothing else (R21). -/
theorem hostRead_frame (reg : Nat) (s : State) :
    hostRead reg s = { s with
      hostData := (hostRead reg s).hostData, freeCount := (hostRead reg s).freeCount } := by
  unfold hostRead
  split
  case h_4 => exact readDataReg_frame s.crc s
  case h_5 => exact readDataReg_frame s.n s
  case h_6 => exact readDataReg_frame s.origptr s
  all_goals rfl

theorem sameCore_hostRead (reg : Nat) (s : State) (rest : List HostEvent) :
    SameCore s (hostRead reg { s with host := rest }) := by
  rw [hostRead_frame]
  rfl

/-! ## Commands -/

/-- A command word is its three fields OP, LVL and ZERO (R90). -/
theorem cmdWord_eq_of_fields {w v : Word} (hop : w.extractLsb' 0 8 = v.extractLsb' 0 8)
    (hlvl : w.extractLsb' 8 4 = v.extractLsb' 8 4)
    (hzero : w.extractLsb' 12 20 = v.extractLsb' 12 20) : w = v := by
  have h1 := congrArg BitVec.toNat hop
  have h2 := congrArg BitVec.toNat hlvl
  have h3 := congrArg BitVec.toNat hzero
  simp only [BitVec.extractLsb'_toNat, Nat.shiftRight_eq_div_pow] at h1 h2 h3
  exact BitVec.eq_of_toNat_eq (by omega)

/-- The legal command words: only 0x0000000F is ABORT (R91, R92). -/
theorem decodeCmd_ok {w : Word} {i : Instr} (h : decode (.cmd w) = .ok i) :
    i = .nop ∨ (∃ lvl, i = .compress lvl) ∨ i = .decompress ∨ (i = .abort ∧ w = 0x0000000F#32) := by
  simp only [decode, decodeCmd] at h
  split at h
  · cases h
  next hzero =>
  split at h
  · split at h
    · exact .inr (.inl ⟨_, (Except.ok.inj h).symm⟩)
    · cases h
  split at h
  · split at h
    · exact .inl (Except.ok.inj h).symm
    · cases h
  split at h
  · split at h
    · exact .inr (.inr (.inl (Except.ok.inj h).symm))
    · cases h
  split at h
  next hop =>
    split at h
    next hlvl =>
      have hw : w = 0x0000000F#32 := cmdWord_eq_of_fields hop hlvl (not_not.1 hzero)
      exact .inr (.inr (.inr ⟨(Except.ok.inj h).symm, hw⟩))
    · cases h
  · cases h

theorem fault_of_not_dropped {s : State} (h : commandsDropped s = false) : s.fault = false :=
  (Bool.or_eq_false_iff.1 h).2

/-! ## What performing an instruction can do -/

/-- The ways the core's state goes on when an instruction or a command is performed.  Only the first is left
to a faulted core. -/
inductive Performed (s : State) : State → Prop where
  /-- An operation ends or waits; NOP; a dropped command; the inert sequencer. -/
  | operates {t} (h : OpReach s t) : Performed s t
  /-- A fault is taken, with what was done before it. -/
  | faults (f) {t} (hf : s.fault = false) (h : OpReach s t) : Performed s (takeFault f t)
  /-- A phase ends in the transition of R300. -/
  | endsPhase {t} (hf : s.fault = false) (h : OpReach s t) : Performed s (nextPhase t)
  /-- `run.end` (R335). -/
  | endsRun (hf : s.fault = false) : Performed s (endRun s)
  /-- COMPRESS is accepted (R292). -/
  | compress (lvl) (h : commandsDropped s = false) : Performed s (acceptCompress lvl s)
  /-- DECOMPRESS is accepted (R293). -/
  | decompress (h : commandsDropped s = false) : Performed s (acceptDecompress s)
  /-- ABORT (R294). -/
  | aborts (hf : s.fault = false) : Performed s (clearedState s)

/-- A faulted core performs nothing but an operation that leaves FAULT alone. -/
theorem Performed.of_fault {s t : State} (h : Performed s t) (hs : s.fault = true) : OpReach s t := by
  have hf : s.fault ≠ false := by simp [hs]
  cases h with
  | operates h => exact h
  | faults _ h | endsPhase h | endsRun h | aborts h => exact absurd h hf
  | compress _ h | decompress h => exact absurd (fault_of_not_dropped h) hf

section Perform
variable {α : Type} {s t : State} (hs : s.fault = false)
include hs

theorem Performed.of_perform {op : Seq α} (hop : ∀ {P}, Stable P → Preserves P op)
    (h : perform op s = .next t) : Performed s t := by
  have hk := (hop (stable_opReach s)).keeps s .refl
  rcases (perform_next_iff op s t).1 h with ⟨a, ha⟩ | ⟨f, u, hu, rfl⟩ | ⟨u, -, rfl⟩
  · rw [ha] at hk
    exact .operates hk
  · rw [hu] at hk
    exact .faults f hs hk
  · exact .operates .refl

theorem Performed.of_raise {f : FaultCode} (h : perform (raise (α := Unit) f) s = .next t) :
    Performed s t :=
  of_perform hs (fun _ => .raise f) h

theorem Performed.of_performValue {g : α → List Word} {op : Seq α}
    (hop : ∀ {P}, Stable P → Preserves P op) (h : performValue g op s = .next t) : Performed s t :=
  of_perform hs (fun hP => .bind (hop hP) fun _ => .modify fun _ => hP (.registers ..))
    h

theorem Performed.of_performPhase {op : Seq Unit} (hop : ∀ {P}, Stable P → Preserves P op)
    (h : performPhase op s = .next t) : Performed s t := by
  have hk := (hop (stable_opReach s)).keeps s .refl
  rcases (perform_next_iff _ s t).1 h with ⟨_, ha⟩ | ⟨f, u, hu, rfl⟩ | ⟨u, -, rfl⟩
  · obtain ⟨_, v, hv, hn⟩ := (seq_bind_ok_iff ..).1 ha
    rw [hv] at hk
    cases hn
    exact .endsPhase hs hk
  · rcases (seq_bind_error_iff ..).1 hu with hu | ⟨_, _, _, hn⟩
    · rw [hu] at hk
      exact .faults f hs hk
    · cases hn
  · exact .operates .refl

end Perform

theorem illegalCommand_performed (s : State) : Performed s (illegalCommand s) := by
  unfold illegalCommand
  split
  · exact .operates .refl
  next h => exact .faults _ (fault_of_not_dropped (by simpa using h)) .refl

theorem execCompress_performed {lvl : BitVec 4} {s t : State} (h : execCompress lvl s = .next t) :
    Performed s t := by
  unfold execCompress at h
  split at h
  · cases h
    exact .operates .refl
  next hd =>
    split at h <;> cases h
    · exact .compress lvl (by simpa using hd)
    · exact illegalCommand_performed s

theorem execDecompress_performed {s t : State} (h : execDecompress s = .next t) : Performed s t := by
  unfold execDecompress at h
  split at h <;> cases h
  · exact .operates .refl
  next hd => exact .decompress (by simpa using hd)

/-- Every instruction, performed by a core without a fault. -/
theorem exec_performed {s t : State} (hs : s.fault = false) (i : Instr)
    (h : exec i s = .next t) : Performed s t := by
  cases i with
  | nop => cases h; exact .operates .refl
  | compress _ => exact execCompress_performed h
  | decompress => exact execDecompress_performed h
  | abort => cases h; exact .aborts hs
  | phaseIdle => cases h; exact .operates .refl
  | phaseHeaderC => exact .of_performPhase hs Stable.preserves_headerCOp h
  | phaseLoadRle => exact .of_performPhase hs Stable.preserves_loadOp h
  | phaseSpot => exact .of_performPhase hs (Stable.preserves_spotApplyOp · _) h
  | phaseSort => exact .of_performPhase hs Stable.preserves_sortOp h
  | phaseEncode => exact .of_performPhase hs Stable.preserves_encodeBlockOp h
  | phaseTrailerC => exact .of_performPhase hs Stable.preserves_trailerCOp h
  | phaseHeaderD => exact .of_performPhase hs Stable.preserves_headerDOp h
  | phaseDecode => exact .of_performPhase hs Stable.preserves_decodeBlockOp h
  | phaseInvertSort => exact .of_performPhase hs Stable.preserves_inverseOp h
  | phaseUnspot => exact .of_performPhase hs (Stable.preserves_spotApplyOp · _) h
  | phaseUnrle => exact .of_performPhase hs Stable.preserves_unloadOp h
  | phaseTrailerD => exact .of_performPhase hs Stable.preserves_trailerDOp h
  | faultBadMagic => exact .of_raise hs h
  | faultTruncated => exact .of_raise hs h
  | faultBlockOverrun => exact .of_raise hs h
  | faultBadSentinel => exact .of_raise hs h
  | faultCrcMismatch => exact .of_raise hs h
  | faultBadOrigptr => exact .of_raise hs h
  | faultBadRle1 => exact .of_raise hs h
  | faultResource => exact .of_raise hs h
  | faultModelSymbolRange => exact .of_raise hs h
  | faultBitsRunaway => exact .of_raise hs h
  | faultOrigptrNotFound => exact .of_raise hs h
  | faultIllegalCmd => exact .of_raise hs h
  | basisRuna => exact .of_perform hs (Stable.preserves_basisOp · _) h
  | basisRunb => exact .of_perform hs (Stable.preserves_basisOp · _) h
  | basisOne => exact .of_perform hs (Stable.preserves_basisOp · _) h
  | basis2To3 => exact .of_perform hs (Stable.preserves_basisOp · _) h
  | basis4To7 => exact .of_perform hs (Stable.preserves_basisOp · _) h
  | basis8To15 => exact .of_perform hs (Stable.preserves_basisOp · _) h
  | basis16To31 => exact .of_perform hs (Stable.preserves_basisOp · _) h
  | basis32To63 => exact .of_perform hs (Stable.preserves_basisOp · _) h
  | basis64To127 => exact .of_perform hs (Stable.preserves_basisOp · _) h
  | basis128To255 => exact .of_perform hs (Stable.preserves_basisOp · _) h
  | basisEob => exact .of_perform hs (Stable.preserves_basisOp · _) h
  | streamMagic _ => exact .of_perform hs (fun hP =>
      .sendOrReceive (hP.preserves_magicSent _) (hP.preserves_magicReceived _)) h
  | streamOrigword w => exact .of_perform hs (fun hP =>
      .sendOrReceive (hP.preserves_putU32Op w) <|
        .bind (hP.preserves_origwordReceived w) fun _ =>
          .modify fun _ => hP (.registers ..)) h
  | streamCrc32 w => exact .of_perform hs (fun hP =>
      .sendOrReceive (hP.preserves_putU32Op w) (.crcReceived w)) h
  | rle1Short c _ => exact .of_perform hs (fun hP =>
      .sendOrReceive (hP.preserves_emitShortOp c _) (hP.preserves_unitReceived c _)) h
  | rle1Long c count => exact .of_perform hs (fun hP =>
      .sendOrReceive (hP.preserves_emitLongOp c count) (hP.preserves_unitReceived c _)) h
  | rle1Sentinel => exact .of_perform hs (fun hP =>
      .sendOrReceive hP.preserves_emitSentinelOp (.pure _)) h
  | crcInit => exact .of_perform hs Stable.preserves_crcInitOp h
  | crcUpdate _ => exact .of_perform hs (Stable.preserves_crcUpdateOp · _) h
  | crcFinal => exact .of_performValue (g := fun w => [w]) hs (fun _ => .crcFinalOp) h
  | modelInit _ => exact .of_perform hs (Stable.preserves_modelInitOp · _) h
  | modelUpdate _ _ => exact .of_perform hs (Stable.preserves_modelUpdateOp · _ _) h
  | modelRescale _ => exact .of_perform hs (Stable.preserves_modelRescaleOp · _) h
  | acEncInit => exact .of_perform hs Stable.preserves_encInitOp h
  | acEncode _ _ => exact .of_perform hs (Stable.preserves_encodeOp · _ _) h
  | acBitPlusFollow _ => exact .of_perform hs (Stable.preserves_bitPlusFollowOp · _) h
  | acEncRenorm => exact .of_perform hs Stable.preserves_encRenormOp h
  | acEncFlush => exact .of_perform hs Stable.preserves_encFlushOp h
  | acDecStart => exact .of_perform hs Stable.preserves_decStartOp h
  | acDecode _ => exact .of_performValue hs (Stable.preserves_decodeOp · _) h
  | acPutU8 _ => exact .of_perform hs (Stable.preserves_putU8Op · _) h
  | acPutU32 _ => exact .of_perform hs (Stable.preserves_putU32Op · _) h
  | acGetU8 => exact .of_performValue hs Stable.preserves_getU8Op h
  | acGetU32 => exact .of_performValue hs Stable.preserves_getU32Op h
  | mtfInit => exact .of_perform hs Stable.preserves_mtfInitOp h
  | mtfRank _ => exact .of_performValue hs (Stable.preserves_mtfRankOp · _) h
  | mtfTake _ => exact .of_performValue hs (Stable.preserves_mtfTakeOp · _) h
  | mtfSendZeroes _ => exact .of_perform hs (Stable.preserves_sendZeroesOp · _) h
  | mtfSendVal _ => exact .of_perform hs (Stable.preserves_sendValOp · _) h
  | mtfSendEob => exact .of_perform hs Stable.preserves_sendEobOp h
  | mtfEncodeBlock => exact .of_perform hs Stable.preserves_encodeBlockOp h
  | mtfDecodeBlock => exact .of_perform hs Stable.preserves_decodeBlockOp h
  | mtfAbsorb _ => exact .of_perform hs (Stable.preserves_absorbOp · _) h
  | mtfCheckOrigptr _ => exact .of_perform hs (Stable.preserves_checkOrigptrOp · _) h
  | bwtSort => exact .of_perform hs Stable.preserves_sortOp h
  | bwtBuildPad => exact .of_perform hs Stable.preserves_buildPadOp h
  | bwtSmallSort => exact .of_perform hs Stable.preserves_smallSortOp h
  | bwtTrivialGt _ _ => exact .of_performValue hs (fun _ => .trivialGtOp _ _) h
  | bwtFullGt _ _ => exact .of_performValue hs (fun _ => .fullGtOp _ _) h
  | bwtBucketSort => exact .of_perform hs Stable.preserves_bucketSortOp h
  | bwtQsort _ _ => exact .of_perform hs (Stable.preserves_qsortOp · _ _) h
  | bwtMedian3 _ _ _ => exact .of_performValue hs (fun _ => .median3Op _ _ _) h
  | bwtPartition _ _ _ => exact .of_performValue hs (Stable.preserves_partitionOp · _ _ _) h
  | bwtInsertion _ _ => exact .of_perform hs (Stable.preserves_insertionOp · _ _) h
  | bwtFindOrigptr => exact .of_perform hs Stable.preserves_findOrigptrOp h
  | bwtInverse => exact .of_perform hs Stable.preserves_inverseOp h
  | rle1Load => exact .of_perform hs Stable.preserves_loadOp h
  | rle1Unload => exact .of_perform hs Stable.preserves_unloadOp h
  | spotApply _ => exact .of_perform hs (Stable.preserves_spotApplyOp · _) h
  | faultEntry f => cases h; exact .faults f hs .refl
  | runEnd => cases h; exact .endsRun hs
  | phaseNext => cases h; exact .endsPhase hs .refl

end Sys2Proof.Machine
end

/-! PROOFS. The ways one step of the machine ends, and the statements of the family `10_state.md`: the
invariants every step keeps, the latched fault, host reads and the reset state. -/
section
namespace Sys2Proof.Machine

/-! ## One step -/

/-- The sequencer clears the latch at most, and performs (R291, R300, R352). -/
theorem sequencerStep_performed {s t : State} (h : sequencerStep s = .next t) :
    ∃ latch, Performed { s with latch := latch } t := by
  unfold sequencerStep at h
  split at h
  · cases h
    exact ⟨s.latch, .operates .refl⟩
  next hf =>
    refine ⟨none, ?_⟩
    unfold performCode at h
    split at h
    next i _ => exact exec_performed (by simpa using hf) i h
    · cases h

/-- A host write to CMD: a legal word is performed, ABORT even after a fault; any other raises ILLEGAL_CMD
unless it is dropped (R290, R296). -/
theorem writeCmd_cases {w : Word} {s t : State} (h : writeCmd w s = .next t) :
    Performed s t ∨ (w = 0x0000000F#32 ∧ t = clearedState s) := by
  unfold writeCmd at h
  split at h
  next i hi =>
    rcases decodeCmd_ok hi with rfl | ⟨lvl, rfl⟩ | rfl | ⟨rfl, hw⟩
    · cases h
      exact .inl (.operates .refl)
    · exact .inl (execCompress_performed h)
    · exact .inl (execDecompress_performed h)
    · cases h
      exact .inr ⟨hw, rfl⟩
  · cases h
    exact .inl (illegalCommand_performed s)

/-- An ABORT within a step ends in the reset values too, with what is left in the ports (R294). -/
theorem abortDuring_cleared {k : Nat} {s t : State} (h : abortDuring k s = .next t) :
    ∃ u, t = clearedState u := by
  unfold abortDuring at h
  split at h <;> cases h
  exact ⟨_, rfl⟩

/-- The next act of the host returns the core to its reset values: reset, ABORT, or ABORT within a step. -/
def ClearsNext (s : State) : Prop :=
  ∃ rest, s.host = .reset :: rest ∨ (∃ k, s.host = .abortAfter k :: rest) ∨
    s.host = .write 0 0x0000000F#32 :: rest

/-- One step: an act beside the core, then perhaps an instruction or a command is performed; or the return to
the reset values, which a faulted core takes too. -/
theorem step_cases {s t : State} (h : step s = .next t) :
    (∃ u, Performed u t ∧ SameCore s u) ∨ (ClearsNext s ∧ ∃ u, t = clearedState u) := by
  unfold step stepOnce at h
  split at h
  next =>
    obtain ⟨latch, hp⟩ := sequencerStep_performed h
    exact .inl ⟨_, hp, rfl⟩
  next e rest he =>
    cases e with
    | write reg w =>
      simp only [hostAct, hostWrite] at h
      split at h
      next hr =>
        subst hr
        rcases writeCmd_cases h with hp | ⟨rfl, rfl⟩
        · exact .inl ⟨_, hp, rfl⟩
        · exact .inr ⟨⟨rest, .inr (.inr he)⟩, _, rfl⟩
      next =>
        cases h
        exact .inl ⟨_, .operates .refl, rfl⟩
    | abortAfter k => exact .inr ⟨⟨rest, .inr (.inl ⟨k, he⟩)⟩, abortDuring_cleared h⟩
    | read reg =>
      cases h
      exact .inl ⟨_, .operates .refl, sameCore_hostRead ..⟩
    | feedBytes bytes eod => cases h; exact .inl ⟨_, .operates .refl, rfl⟩
    | feedBits bits eod => cases h; exact .inl ⟨_, .operates .refl, rfl⟩
    | dropInput => cases h; exact .inl ⟨_, .operates .refl, rfl⟩
    | wait =>
      simp only [hostAct] at h
      split at h
      · obtain ⟨latch, hp⟩ := sequencerStep_performed h
        exact .inl ⟨_, hp, rfl⟩
      · cases h
        exact .inl ⟨_, .operates .refl, rfl⟩
    | gap =>
      obtain ⟨latch, hp⟩ := sequencerStep_performed h
      exact .inl ⟨_, hp, rfl⟩
    | reset => cases h; exact .inr ⟨⟨rest, .inl he⟩, _, rfl⟩

/-- An invariant of the core that performing keeps and the reset values meet is kept by every step. -/
theorem step_keeps {P : State → Prop} (hsame : ∀ {s t}, SameCore s t → P s → P t)
    (hperf : ∀ {s t}, Performed s t → P s → P t) (hclear : ∀ s, P (clearedState s)) {s t : State}
    (hs : P s) (h : step s = .next t) : P t := by
  rcases step_cases h with ⟨u, hp, hu⟩ | ⟨-, u, rfl⟩
  · exact hperf hp (hsame hu hs)
  · exact hclear u

/-- The phase transition (R300): nothing in IDLE; else another phase of the same mode, or the run's end. -/
theorem nextPhase_cases (s : State) :
    nextPhase s = s ∨
      (∃ p, phaseMode p = phaseMode s.phase ∧ nextPhase s = { s with phase := p }) ∨
      nextPhase s = endRun s := by
  unfold nextPhase
  split
  case h_1 => exact .inl rfl
  case h_7 | h_13 => exact .inr (.inr rfl)
  case h_6 h | h_12 h =>
    refine .inr (.inl ⟨_, ?_, rfl⟩)
    rw [h]
    split <;> rfl
  all_goals
    rename_i h
    exact .inr (.inl ⟨_, by rw [h]; rfl, rfl⟩)

/-! ## At most one of BUSY, DONE, FAULT -/

theorem stable_fault (b : Bool) : Stable (fun s => s.fault = b) := by
  intro s t hu h
  cases hu <;> exact h

theorem stable_err (e : Byte) : Stable (fun s => s.err = e) := by
  intro s t hu h
  cases hu <;> exact h

theorem stable_flagsExclusive : Stable flagsExclusive := by
  intro s t hu h
  cases hu <;> exact h

/-- The end of a run sets DONE, so it must not come after a fault. -/
theorem flagsExclusive_endRun {s : State} (hf : s.fault = false) : flagsExclusive (endRun s) := by
  simp [flagsExclusive, hf]

theorem performed_flagsExclusive {s t : State} (h : Performed s t) (hs : flagsExclusive s) :
    flagsExclusive t := by
  cases h with
  | operates h => exact h.keeps stable_flagsExclusive hs
  | faults f hf h => simp [flagsExclusive]
  | @endsPhase u hf h =>
    have hu := h.keeps stable_flagsExclusive hs
    have hfu : u.fault = false := h.keeps (stable_fault false) hf
    rcases nextPhase_cases u with hn | ⟨p, -, hn⟩ | hn <;> rw [hn]
    · exact hu
    · exact hu
    · exact flagsExclusive_endRun hfu
  | endsRun hf => exact flagsExclusive_endRun hf
  | compress lvl h | decompress h =>
    simp [flagsExclusive, fault_of_not_dropped h]
  | aborts hf => simp [flagsExclusive]

/-- Settles O15: flags change only by a fault, the end of a run, an accepted command and reset. -/
theorem stepKeepsFlagsExclusive : Obligations.StepKeepsFlagsExclusive := fun _ _ =>
  step_keeps (fun h hs => by rw [h]; exact hs) performed_flagsExclusive
    fun _ => by simp [flagsExclusive]

/-! ## PHASE in the run's MODE -/

theorem stable_sequencerOk : Stable sequencerOk := by
  intro s t hu h
  cases hu <;> exact h

theorem sequencerOk_endRun (s : State) : sequencerOk (endRun s) := by simp [sequencerOk]

theorem phaseMode_eq_none_iff (p : Phase) : phaseMode p = .none ↔ p = .idle := by
  cases p <;> decide

theorem sequencerOk_nextPhase {s : State} (hs : sequencerOk s) : sequencerOk (nextPhase s) := by
  rcases nextPhase_cases s with hn | ⟨p, hm, hn⟩ | hn <;> rw [hn]
  · exact hs
  · have hidle : p = .idle ↔ s.phase = .idle := by
      rw [← phaseMode_eq_none_iff, hm, phaseMode_eq_none_iff]
    obtain ⟨hbusy, hrest⟩ := hs
    exact ⟨fun h => ⟨hidle.not.2 (hbusy h).1, (hbusy h).2.trans hm.symm⟩,
      fun h => (hrest h).imp_right hidle.2⟩
  · exact sequencerOk_endRun s

theorem performed_sequencerOk {s t : State} (h : Performed s t) (hs : sequencerOk s) :
    sequencerOk t := by
  cases h with
  | operates h => exact h.keeps stable_sequencerOk hs
  | faults f hf h => simp [sequencerOk]
  | endsPhase hf h => exact sequencerOk_nextPhase (h.keeps stable_sequencerOk hs)
  | endsRun hf => exact sequencerOk_endRun s
  | compress lvl h | decompress h => simp [sequencerOk, phaseMode]
  | aborts hf => simp [sequencerOk]

/-- Settles O16: PHASE and MODE change only by R300, the end of a run, an accepted command and reset. -/
theorem stepKeepsPhaseInMode : Obligations.StepKeepsPhaseInMode := fun _ _ =>
  step_keeps (fun h hs => by rw [h]; exact hs) performed_sequencerOk
    fun _ => by simp [sequencerOk]

/-! ## The move-to-front list -/

theorem perm_moveToFront {yy : List Byte} {j : Nat} {b : Byte} (h : yy[j]? = some b) :
    (moveToFront yy j b).Perm yy := by
  obtain ⟨hj, rfl⟩ := List.getElem?_eq_some_iff.1 h
  exact List.getElem_cons_eraseIdx_perm hj

theorem stable_listOk : Stable listOk := by
  intro s t hu hs
  cases hu with
  | listInit => exact .refl _
  | listMove j b h => exact (perm_moveToFront h).trans hs
  | _ => exact hs

theorem performed_listOk {s t : State} (h : Performed s t) (hs : listOk s) : listOk t := by
  cases h with
  | operates h => exact h.keeps stable_listOk hs
  | faults f hf h => exact h.keeps stable_listOk hs
  | endsPhase hf h =>
    rw [listOk, nextPhase_yy]
    exact h.keeps stable_listOk hs
  | endsRun hf => exact hs
  | compress lvl h | decompress h => exact hs
  | aborts hf => exact .refl _

/-- Settles O17: YY changes only by `mtf.init`, reset and moves of its own entries. -/
theorem stepKeepsListPermutation : Obligations.StepKeepsListPermutation := fun _ _ =>
  step_keeps (fun h hs => by rw [h]; exact hs) performed_listOk fun _ => .refl _

/-! ## A latched fault -/

/-- Settles O13: what a faulted core performs leaves FAULT and ERR. -/
theorem onlyAbortAndResetClearFault : Obligations.OnlyAbortAndResetClearFault := by
  intro s t hs h
  rcases step_cases h with ⟨u, hp, hu⟩ | ⟨hc, -⟩
  · have hfu : u.fault = true := by rw [hu]; exact hs
    have hr := hp.of_fault hfu
    have heu : u.err = s.err := by rw [hu]
    exact .inl ⟨hr.keeps (stable_fault true) hfu, hr.keeps (stable_err s.err) heu⟩
  · exact .inr hc

/-! ## What the host reads -/

/-- A host read is one step, which takes the act off the list. -/
theorem step_read {s : State} {reg : Nat} {rest : List HostEvent} (h : s.host = .read reg :: rest) :
    step s = .next (hostRead reg { s with host := rest }) := by
  simp only [step, stepOnce, h, hostAct]

theorem hostRead_of_ge {reg : Nat} (h : 7 ≤ reg) (s : State) :
    (hostRead reg s).hostData = 0#32 := by
  obtain ⟨k, rfl⟩ := Nat.exists_eq_add_of_le' h
  rfl

theorem readDataReg_hostData {s : State} (h : s.busy = false) (v : Word) :
    (readDataReg v s).hostData = v := by
  simp [readDataReg, h]

/-- The bits of STATUS, field by field (R22). -/
theorem getLsbD_statusWord (s : State) (i : Nat) :
    (statusWord s).getLsbD i =
      if i < 1 then s.busy else if i < 2 then s.done else if i < 3 then s.fault
      else if i < 4 then s.finalBlock else if i < 6 then (modeCode s.mode).getLsbD (i - 4)
      else if i < 8 then false else (phaseCode s.phase).getLsbD (i - 8) := by
  have hword : statusWord s =
      0#20 ++ phaseCode s.phase ++ 0#2 ++ modeCode s.mode ++ flagBit s.finalBlock ++ flagBit s.fault
        ++ flagBit s.done ++ flagBit s.busy := rfl
  rw [hword]
  simp only [BitVec.getLsbD_append, flagBit, BitVec.getLsbD_ofBool, BitVec.getLsbD_zero]
  match i with
  | 0 | 1 | 2 | 3 => rfl
  | j + 4 =>
    have hend : ¬ j - 2 - 2 < 4 → (phaseCode s.phase).getLsbD (j - 4) = false := fun h =>
      BitVec.getLsbD_of_ge _ _ (by omega)
    grind

/-- The fields of STATUS as R22 lays them out. -/
theorem statusWord_fields (s : State) :
    (statusWord s).getLsbD 0 = s.busy ∧ (statusWord s).getLsbD 1 = s.done ∧
      (statusWord s).getLsbD 2 = s.fault ∧ (statusWord s).getLsbD 3 = s.finalBlock ∧
      (statusWord s).extractLsb' 4 2 = modeCode s.mode ∧ (statusWord s).extractLsb' 6 2 = 0#2 ∧
      (statusWord s).extractLsb' 8 4 = phaseCode s.phase ∧
      (statusWord s).extractLsb' 12 20 = 0#20 := by
  refine ⟨getLsbD_statusWord s 0, getLsbD_statusWord s 1, getLsbD_statusWord s 2,
    getLsbD_statusWord s 3, ?_, ?_, ?_, ?_⟩ <;> refine BitVec.eq_of_getLsbD_eq fun i hi => ?_ <;>
    rw [BitVec.getLsbD_extractLsb', Nat.add_comm, getLsbD_statusWord]
  · simp [hi, show ¬ i + 4 < 3 by omega, show i + 4 < 6 by omega]
  · simp [hi]
  · simp [hi, show ¬ i + 8 < 3 by omega, show ¬ i + 8 < 4 by omega, show ¬ i + 8 < 6 by omega]
  · simp [BitVec.getLsbD_of_ge]

/-- Settles O9, by the frame of a host read and the fields of STATUS. -/
theorem hostReads : Obligations.HostReads := by
  intro s
  obtain ⟨hbusy, hdone, hfault, hfinal, hmode, h76, hphase, hzero⟩ := statusWord_fields s
  refine ⟨fun k rest hk => ?_, hbusy, hdone, hfault, hfinal, ?_, h76, ?_, hzero⟩
  · refine ⟨_, step_read hk, hostRead_frame k _, ?_, ?_, ?_, ?_, fun hb => ⟨?_, ?_, ?_⟩⟩
    · rintro (rfl | h7)
      · rfl
      · exact hostRead_of_ge h7 _
    · rintro rfl
      rfl
    · rintro rfl
      exact BitVec.toNat_setWidth_of_le (by decide)
    · rintro rfl
      exact BitVec.toNat_setWidth_of_le (by decide)
    all_goals
      rintro rfl
      exact readDataReg_hostData (s := { s with host := rest }) hb _
  · rw [hmode]
    cases s.mode <;> rfl
  · rw [hphase]
    cases s.phase <;> rfl

/-! ## Reset -/

theorem modelsOk_reset : modelsOk State.reset := modelsOk_of_check (by decide +kernel)

theorem rangeOk_reset : rangeOk State.reset := by unfold rangeOk; decide

theorem flagsExclusive_reset : flagsExclusive State.reset := by simp [flagsExclusive, State.reset]

theorem indexesOk_reset : indexesOk State.reset := ⟨Nat.zero_le _, nofun, rfl, rfl⟩

theorem legalState_reset : legalState State.reset :=
  ⟨reset_arrays_wf, .refl _, modelsOk_reset, fun _ => rangeOk_reset, indexesOk_reset⟩

/-- Settles O21, by evaluation of the reset state. -/
theorem resetMeetsEveryInvariant : Obligations.ResetMeetsEveryInvariant :=
  ⟨by decide, rfl, rfl, rfl, rfl, rfl, flagsExclusive_reset, ⟨nofun, fun _ => .inr rfl⟩,
    reset_arrays_wf, .refl _, modelsOk_reset, rangeOk_reset, legalState_reset, nofun, nofun⟩

end Sys2Proof.Machine
end

/-! PROOFS. The family `20_memory.md`, what every step keeps of the arrays and of the output: the arrays'
canonical form, the built parameters and what was pushed. -/
section
namespace Sys2Proof.Machine

/-! ## The arrays' canonical form -/

theorem stable_arraysOk : Stable arraysOk := by
  intro s t hu hs
  obtain ⟨hblock, hzptr, hll, hnext, hftab, hcc⟩ := hs
  cases hu with
  | block i v => exact ⟨arrWf_arrSet hblock i v, hzptr, hll, hnext, hftab, hcc⟩
  | zptr i v => exact ⟨hblock, arrWf_arrSet hzptr i v, hll, hnext, hftab, hcc⟩
  | ll i v => exact ⟨hblock, hzptr, arrWf_arrSet hll i v, hnext, hftab, hcc⟩
  | nextIdx i v => exact ⟨hblock, hzptr, hll, arrWf_arrSet hnext i v, hftab, hcc⟩
  | ftab i v => exact ⟨hblock, hzptr, hll, hnext, arrWf_arrSet hftab i v, hcc⟩
  | cc i v => exact ⟨hblock, hzptr, hll, hnext, hftab, arrWf_arrSet hcc i v⟩
  | _ => exact ⟨hblock, hzptr, hll, hnext, hftab, hcc⟩

/-- The phase transition writes no array. -/
theorem arraysOk_nextPhase {s : State} (hs : arraysOk s) : arraysOk (nextPhase s) := by
  rcases nextPhase_cases s with hn | ⟨p, -, hn⟩ | hn <;> rw [hn] <;> exact hs

/-- An ABORT and a reset leave nothing listed. -/
theorem arraysOk_clearedState (s : State) : arraysOk (clearedState s) := reset_arrays_wf

theorem performed_arraysOk {s t : State} (h : Performed s t) (hs : arraysOk s) : arraysOk t := by
  cases h with
  | operates h => exact h.keeps stable_arraysOk hs
  | faults f hf h => exact h.keeps stable_arraysOk hs
  | endsPhase hf h => exact arraysOk_nextPhase (h.keeps stable_arraysOk hs)
  | endsRun hf => exact hs
  | compress lvl h | decompress h => exact hs
  | aborts hf => exact arraysOk_clearedState s

/-- Settles O14: operations write arrays by `arrSet` alone, and an ABORT and a reset empty them. -/
theorem stepKeepsArraysCanonical : Obligations.StepKeepsArraysCanonical := fun _ _ =>
  step_keeps (fun h hs => by rw [h]; exact hs) performed_arraysOk arraysOk_clearedState

/-! ## The parameters and what was pushed -/

/-- `t` has the parameters of `s` and continues its output. -/
def ContinuesOutput (s t : State) : Prop :=
  t.par = s.par ∧ s.bitOut <+: t.bitOut ∧ s.byteOut <+: t.byteOut

theorem ContinuesOutput.refl (s : State) : ContinuesOutput s s :=
  ⟨rfl, List.prefix_rfl, List.prefix_rfl⟩

theorem stable_continuesOutput (s : State) : Stable (ContinuesOutput s) := by
  intro t u hu ht
  obtain ⟨hpar, hbits, hbytes⟩ := ht
  cases hu with
  | pushBits bits bo => exact ⟨hpar, hbits.trans (List.prefix_append ..), hbytes⟩
  | pushBytes bytes crc => exact ⟨hpar, hbits, hbytes.trans (List.prefix_append ..)⟩
  | _ => exact ⟨hpar, hbits, hbytes⟩

theorem OpReach.continuesOutput {s t : State} (h : OpReach s t) : ContinuesOutput s t :=
  h.keeps (stable_continuesOutput s) (.refl s)

theorem Performed.continuesOutput {s t : State} (h : Performed s t) : ContinuesOutput s t := by
  cases h with
  | operates h => exact h.continuesOutput
  | faults f hf h => exact h.continuesOutput
  | @endsPhase u hf h =>
    have hu := h.continuesOutput
    rcases nextPhase_cases u with hn | ⟨p, -, hn⟩ | hn <;> rw [hn] <;> exact hu
  | endsRun hf => exact .refl s
  | compress lvl h | decompress h => exact .refl s
  | aborts hf => exact .refl s

/-- An ABORT within a step leaves the parameters, and the output made before it (R294). -/
theorem continuesOutput_cutShort (k : Nat) (s t : State) : ContinuesOutput s (cutShort k s t) :=
  ⟨rfl, List.prefix_append .., List.prefix_append ..⟩

/-- A step that returns the core to its reset values leaves the output ports. -/
theorem continuesOutput_of_clearsNext {s t : State} (hc : ClearsNext s) (h : step s = .next t) :
    ContinuesOutput s t := by
  obtain ⟨rest, he | ⟨k, he⟩ | he⟩ := hc <;> simp only [step, stepOnce, he, hostAct] at h
  · cases h
    exact .refl s
  · unfold abortDuring at h
    split at h <;> cases h
    exact continuesOutput_cutShort k _ _
  · rw [hostWrite, if_pos rfl] at h
    rcases writeCmd_cases h with hp | ⟨-, rfl⟩
    · exact hp.continuesOutput
    · exact .refl s

/-- Settles O20: operations append to the output ports, and no way a step ends takes anything back. -/
theorem stepKeepsParametersAndOutput : Obligations.StepKeepsParametersAndOutput := by
  intro s t h
  rcases step_cases h with ⟨u, hp, hu⟩ | ⟨hc, -⟩
  · have hut := hp.continuesOutput
    rw [hu] at hut
    exact hut
  · exact continuesOutput_of_clearsNext hc h

end Sys2Proof.Machine
end

/-! PROOFS. What it takes for an operation never to stop the model: `Safe` says that it ends, raises a fault of
the hardware or waits, and each statement form of the sequencer has its rule. -/
section
namespace Sys2Proof.Machine

variable {α β : Type} {R : State → Prop} {s : State}

/-- From `s`, `op` ends in `Q`, raises a fault with `R`, or waits; it meets no defect and no refusal. -/
structure Safe (R : State → Prop) (s : State) (op : Seq α) (Q : α → State → Prop) : Prop where
  run : match op s with
    | .ok a t => Q a t
    | .error (.raise _) t => R t
    | .error .wait _ => True
    | .error (.defect _) _ => False
    | .error (.outside _) _ => False

section Rules

variable {op : Seq α} {Q : α → State → Prop} {x : Seq α} {f : α → Seq β} {Q' : β → State → Prop}

/-! ## Single statements and sequences -/

theorem Safe.of_ok {a : α} {t : State} (h : op s = .ok a t) (hQ : Q a t) : Safe R s op Q :=
  ⟨by rw [h]; exact hQ⟩

theorem Safe.of_raise {e : FaultCode} {t : State} (h : op s = .error (.raise e) t) (hR : R t) :
    Safe R s op Q :=
  ⟨by rw [h]; exact hR⟩

theorem Safe.of_wait {t : State} (h : op s = .error .wait t) : Safe R s op Q := ⟨by rw [h]; trivial⟩

theorem Safe.pure {a : α} (h : Q a s) : Safe R s (pure a) Q := .of_ok rfl h

theorem Safe.raise {e : FaultCode} (h : R s) : Safe R s (raise e : Seq α) Q := .of_raise rfl h

theorem Safe.mono {Q₂ : α → State → Prop} (h : Safe R s op Q) (hQ : ∀ a t, Q a t → Q₂ a t) :
    Safe R s op Q₂ := by
  obtain ⟨h⟩ := h
  refine ⟨?_⟩
  cases ho : op s with
  | ok a t => rw [ho] at h; exact hQ a t h
  | error e t => rw [ho] at h; cases e <;> exact h

theorem Safe.bind (hx : Safe R s x Q) (hf : ∀ a t, Q a t → Safe R t (f a) Q') :
    Safe R s (x >>= f) Q' := by
  obtain ⟨hx⟩ := hx
  refine ⟨?_⟩
  rw [seq_bind]
  cases h : x s with
  | ok a t => rw [h] at hx; exact (hf a t hx).run
  | error e t => rw [h] at hx; cases e <;> exact hx

/-- A part whose result is known, and what follows it. -/
theorem Safe.ok_bind {a : α} {t : State} (hx : x s = .ok a t) (hf : Safe R t (f a) Q') :
    Safe R s (x >>= f) Q' := by
  refine .bind (Q := fun b u => b = a ∧ u = t) (.of_ok hx ⟨rfl, rfl⟩) ?_
  rintro _ _ ⟨rfl, rfl⟩
  exact hf

theorem Safe.get {f : State → Seq β} (h : Safe R s (f s) Q') :
    Safe R s ((get : Seq State) >>= f) Q' := .ok_bind rfl h

theorem Safe.set_bind {t : State} {f : Unit → Seq β} (h : Safe R t (f ()) Q') :
    Safe R s ((set t : Seq Unit) >>= f) Q' := .ok_bind rfl h

theorem Safe.modify_bind {g : State → State} {f : Unit → Seq β} (h : Safe R (g s) (f ()) Q') :
    Safe R s ((modify g : Seq Unit) >>= f) Q' := .ok_bind rfl h

theorem Safe.modify {Q : Unit → State → Prop} {g : State → State} (h : Q () (g s)) :
    Safe R s (modify g : Seq Unit) Q :=
  .of_ok rfl h

theorem Safe.ite {c : Prop} [Decidable c] {y : Seq α} (hx : c → Safe R s x Q)
    (hy : ¬ c → Safe R s y Q) : Safe R s (if c then x else y) Q := by
  split
  next h => exact hx h
  next h => exact hy h

/-- A check in the middle of an operation that raises a fault: `if c then raise e; rest`. -/
theorem Safe.check {c : Prop} [Decidable c] {e : FaultCode} {f : Unit → Seq β} (hR : c → R s)
    (hf : ¬ c → Safe R s (f ()) Q') :
    Safe R s (if c then (Machine.raise e : Seq Unit) >>= f else f ()) Q' :=
  .ite (fun h => .bind (Q := fun _ _ => False) (.raise (hR h)) fun _ _ => False.elim) hf

/-- A check that stops the model where its condition cannot hold. -/
theorem Safe.no_defect {c : Prop} [Decidable c] {e : Fault} {f : Unit → Seq β} (hc : ¬ c)
    (hf : Safe R s (f ()) Q') :
    Safe R s (if c then (defect e : Seq Unit) >>= f else f ()) Q' := by
  rwa [if_neg hc]

/-- What an operation keeps anyway holds beside what is shown of it. -/
theorem Safe.and_preserves {P : State → Prop} (h : Safe R s op Q) (hp : Preserves P op) (hs : P s) :
    Safe (fun t => R t ∧ P t) s op (fun a t => Q a t ∧ P t) := by
  have hk := hp.keeps s hs
  obtain ⟨h⟩ := h
  refine ⟨?_⟩
  cases ho : op s with
  | ok a t => rw [ho] at h hk; exact ⟨h, hk⟩
  | error e t =>
    rw [ho] at h hk
    cases e with
    | raise e => exact ⟨h, hk⟩
    | _ => exact h

end Rules

/-! ## Loops -/

section Loops

variable {body : Seq Unit} {pass : Nat → Seq Unit}

theorem Safe.loopUp (I : Nat → State → Prop) : ∀ (k i : Nat) {s : State}, I i s →
    (∀ j t, i ≤ j → j < i + k → I j t → Safe R t (pass j) fun _ => I (j + 1)) →
    Safe R s (loopUp pass i k) fun _ => I (i + k)
  | 0, i, s, h, _ => .pure h
  | k + 1, i, s, h, hb => by
    rw [loopUp_succ, ← Nat.add_assoc, Nat.add_right_comm]
    exact .bind (hb i s (by omega) (by omega) h) fun _ t ht =>
      Safe.loopUp I k (i + 1) ht fun j u h1 h2 => hb j u (by omega) (by omega)

theorem Safe.loopDown (I : Nat → State → Prop) : ∀ (k : Nat) {s : State}, I k s →
    (∀ j t, j < k → I (j + 1) t → Safe R t (pass j) fun _ => I j) →
    Safe R s (loopDown pass k) fun _ => I 0
  | 0, s, h, _ => .pure h
  | k + 1, s, h, hb =>
    .bind (hb k s (by omega) h) fun _ t ht =>
      Safe.loopDown I k ht fun j u h1 => hb j u (by omega)

theorem Safe.repeatTimes (I : Nat → State → Prop) : ∀ (k : Nat) {s : State}, I k s →
    (∀ j t, j < k → I (j + 1) t → Safe R t body fun _ => I j) →
    Safe R s (repeatTimes body k) fun _ => I 0
  | 0, s, h, _ => .pure h
  | k + 1, s, h, hb =>
    .bind (hb k s (by omega) h) fun _ t ht =>
      Safe.repeatTimes I k ht fun j u h1 => hb j u (by omega)

end Loops

/-! ## Outcomes -/

/-- A phase that is safe answers a next state: it waits, takes a fault, or ends in the transition of R300. -/
theorem performPhase_of_safe {op : Seq Unit} {Q : Unit → State → Prop} (h : Safe R s op Q) :
    ∃ t, performPhase op s = .next t ∧
      (t = s ∨ (∃ f u, R u ∧ t = takeFault f u) ∨ ∃ u, Q () u ∧ t = nextPhase u) := by
  obtain ⟨h⟩ := h
  cases ho : op s with
  | ok a t =>
    rw [ho] at h
    exact ⟨_, performPhase_of_ok ho, .inr (.inr ⟨t, h, rfl⟩)⟩
  | error e t =>
    rw [ho] at h
    have hop : (op >>= fun _ => modify nextPhase) s = .error e t := by rw [seq_bind, ho]
    cases e with
    | raise f => exact ⟨_, perform_of_raise hop, .inr (.inl ⟨f, t, h, rfl⟩)⟩
    | wait => exact ⟨s, perform_of_wait hop, .inl rfl⟩
    | defect f => exact h.elim
    | outside r => exact h.elim

end Sys2Proof.Machine
end

/-! PROOFS. The frequency models in the natural numbers: legal parameters, the sums of R147, and that
initialisation, update and rescaling keep R146. -/
section
namespace Sys2Proof.Machine

/-! ## Legal parameters (R9, R10) -/

/-- What R10 asks of an adaptive model. -/
theorem adaptive_of_paramsLegal {p : Params} (hp : paramsLegal p = true) {m : ModelId}
    (hm : m ≠ bogusModel) :
    1 ≤ incOf p m ∧ numSymbols m * incOf p m ≤ limitOf p m ∧
      limitOf p m + incOf p m ≤ quarter.toNat := by
  simp only [paramsLegal, Bool.and_eq_true, List.all_eq_true] at hp
  obtain ⟨⟨hmodels, -⟩, -⟩ := hp
  have hmem : m ∈ ([0, 1, 2, 3, 4, 5, 6, 7] : List ModelId) := by
    revert hm
    revert m
    decide
  simpa [modelParamsOk, and_assoc] using hmodels m hmem

theorem maxLevel_of_paramsLegal {p : Params} (hp : paramsLegal p = true) :
    1 ≤ p.maxLevel ∧ p.maxLevel ≤ 9 := by
  simp only [paramsLegal, Bool.and_eq_true, decide_eq_true_eq] at hp
  obtain ⟨⟨-, h1⟩, h9⟩ := hp
  exact ⟨h1, h9⟩

theorem incOf_bogusModel (p : Params) : incOf p bogusModel = 0 := rfl

theorem limitOf_bogusModel (p : Params) : limitOf p bogusModel = 256 := rfl

theorem limitOf_le_quarter {p : Params} (hp : paramsLegal p = true) (m : ModelId) :
    limitOf p m ≤ quarter.toNat := by
  by_cases hm : m = bogusModel
  · subst hm
    rw [limitOf_bogusModel]
    decide
  · have := adaptive_of_paramsLegal hp hm
    omega

theorem one_lt_numSymbols (m : ModelId) : 1 < numSymbols m := by
  revert m
  decide

/-! ## Sums of registers (R147) -/

/-- A sum of words that fits a word is the sum of their values. -/
theorem toNat_sumWords : ∀ {l : List Word}, (l.map BitVec.toNat).sum < 2 ^ 32 →
    (sumWords l).toNat = (l.map BitVec.toNat).sum
  | [], _ => rfl
  | w :: l, h => by
    simp only [List.map_cons, List.sum_cons] at h ⊢
    have ih := toNat_sumWords (l := l) (by omega)
    rw [sumWords, BitVec.toNat_add, ih]
    omega

theorem sum_map_toNat_set : ∀ {l : List Word} {i : Nat} (x : Word), i < l.length →
    ((l.set i x).map BitVec.toNat).sum + (l.getD i 0#32).toNat = (l.map BitVec.toNat).sum + x.toNat
  | [], _, _, h => absurd h (Nat.not_lt_zero _)
  | w :: l, 0, x, _ => by simp; omega
  | w :: l, i + 1, x, h => by
    have ih := sum_map_toNat_set (l := l) (i := i) x (by simpa using h)
    simp only [List.set_cons_succ, List.map_cons, List.sum_cons, List.getD_cons_succ]
    omega

/-- The symbols below `sym` and `sym` itself have their part of the total. -/
theorem sum_take_add_getD_le : ∀ {l : List Word} {i : Nat}, i < l.length →
    ((l.take i).map BitVec.toNat).sum + (l.getD i 0#32).toNat ≤ (l.map BitVec.toNat).sum
  | [], _, h => absurd h (Nat.not_lt_zero _)
  | w :: l, 0, _ => by simp
  | w :: l, i + 1, h => by
    have ih := sum_take_add_getD_le (l := l) (i := i) (by simpa using h)
    simp only [List.take_succ_cons, List.map_cons, List.sum_cons, List.getD_cons_succ]
    omega

theorem getD_mem {l : List Word} {i : Nat} (h : i < l.length) : l.getD i 0#32 ∈ l := by
  rw [List.getD_eq_getElem _ _ h]
  exact List.getElem_mem h

theorem toNat_le_sum {l : List Word} {f : Word} (h : f ∈ l) :
    f.toNat ≤ (l.map BitVec.toNat).sum :=
  List.single_le_sum (fun _ _ => Nat.zero_le _) _ (List.mem_map_of_mem h)

/-! ## One model (R146) -/

section Model

variable {p : Params} {m : ModelId} {fm : FreqModel}

theorem modelOk.length_eq (h : modelOk p m fm) : fm.freq.length = numSymbols m := h.1

theorem modelOk.totFreq_le (hp : paramsLegal p = true) (h : modelOk p m fm) :
    fm.totFreq.toNat ≤ quarter.toNat :=
  have ⟨_, _, _, hlim, _⟩ := h
  hlim.trans (limitOf_le_quarter hp m)

/-- The symbol's part of the total: `lowCum + freq <= totFreq`, and the frequency is not 0. -/
theorem modelOk.symbol_part (hp : paramsLegal p = true) (h : modelOk p m fm) {sym : Nat}
    (hsym : sym < fm.freq.length) :
    1 ≤ (freqAt fm sym).toNat ∧
      (lowCum fm sym).toNat + (freqAt fm sym).toNat ≤ fm.totFreq.toNat := by
  have hq := h.totFreq_le hp
  obtain ⟨-, hpos, htot, -, -⟩ := h
  have hle := sum_take_add_getD_le hsym
  have hquarter : quarter.toNat < 2 ^ 32 := by decide
  have hlow : (lowCum fm sym).toNat = ((fm.freq.take sym).map BitVec.toNat).sum :=
    toNat_sumWords (by omega)
  refine ⟨hpos _ (getD_mem hsym), ?_⟩
  rw [hlow, htot]
  exact hle

theorem modelOk.totFreq_pos (hp : paramsLegal p = true) (h : modelOk p m fm) :
    1 ≤ fm.totFreq.toNat := by
  have hlen : 0 < fm.freq.length := by
    have := one_lt_numSymbols m
    rw [h.length_eq]
    omega
  have := h.symbol_part hp hlen
  omega

theorem modelOk.totFreq_ne_zero (hp : paramsLegal p = true) (h : modelOk p m fm) :
    fm.totFreq ≠ 0#32 := fun h0 => by
  have htot := h.totFreq_pos hp
  rw [h0] at htot
  exact absurd htot (by decide)

/-- The frequency each symbol starts with (R141). -/
def initialUnit (p : Params) (m : ModelId) : Nat := if incOf p m = 0 then 1 else incOf p m

theorem initialUnit_bounds (hp : paramsLegal p = true) (m : ModelId) :
    1 ≤ initialUnit p m ∧ numSymbols m * initialUnit p m ≤ limitOf p m := by
  unfold initialUnit
  by_cases hm : m = bogusModel
  · subst hm
    rw [incOf_bogusModel, limitOf_bogusModel]
    decide
  · obtain ⟨hinc, hlim, -⟩ := adaptive_of_paramsLegal hp hm
    rw [if_neg (by omega)]
    exact ⟨hinc, hlim⟩

theorem modelOk_initialModel (hp : paramsLegal p = true) (m : ModelId) :
    modelOk p m (initialModel p m) := by
  have hdef : initialModel p m =
      { totFreq := BitVec.ofNat 32 (numSymbols m * initialUnit p m)
        freq := List.replicate (numSymbols m) (BitVec.ofNat 32 (initialUnit p m)) } := rfl
  obtain ⟨hunit, htot⟩ := initialUnit_bounds hp m
  have hlim := limitOf_le_quarter hp m
  have hquarter : quarter.toNat < 2 ^ 32 := by decide
  have hle : initialUnit p m ≤ numSymbols m * initialUnit p m :=
    Nat.le_mul_of_pos_left _ (by have := one_lt_numSymbols m; omega)
  have hunit' : (BitVec.ofNat 32 (initialUnit p m)).toNat = initialUnit p m := by
    rw [BitVec.toNat_ofNat, Nat.mod_eq_of_lt (by omega)]
  have htot' : (BitVec.ofNat 32 (numSymbols m * initialUnit p m)).toNat =
      numSymbols m * initialUnit p m := by
    rw [BitVec.toNat_ofNat, Nat.mod_eq_of_lt (by omega)]
  rw [hdef]
  refine ⟨List.length_replicate, ?_, ?_, ?_, ?_⟩
  · intro f hf
    rw [List.eq_of_mem_replicate hf, hunit']
    exact hunit
  · simp [hunit', htot']
  · rw [htot']
    exact htot
  · rintro rfl f hf
    exact List.eq_of_mem_replicate hf

/-- Halving every frequency, rounded up, at most halves the total and adds half the number of symbols. -/
theorem two_mul_sum_halved_le : ∀ l : List Nat,
    2 * (l.map fun f => (f + 1) / 2).sum ≤ l.sum + l.length
  | [] => by simp
  | f :: l => by
    have := two_mul_sum_halved_le l
    simp only [List.map_cons, List.sum_cons, List.length_cons]
    omega

theorem toNat_halved {f : Word} (h : f.toNat + 1 < 2 ^ 32) :
    ((f + 1#32) >>> 1).toNat = (f.toNat + 1) / 2 := by
  rw [BitVec.toNat_ushiftRight, BitVec.toNat_add, Nat.shiftRight_eq_div_pow]
  simp only [BitVec.toNat_ofNat]
  omega

/-- Rescaling (R143) brings a model back within its limit that exceeds it by one increment at most. -/
theorem modelOk_rescaled (hp : paramsLegal p = true) (hm : m ≠ bogusModel)
    (hlen : fm.freq.length = numSymbols m) (hpos : ∀ f ∈ fm.freq, 1 ≤ f.toNat)
    (hsum : (fm.freq.map BitVec.toNat).sum ≤ limitOf p m + incOf p m) :
    modelOk p m (rescaled fm) := by
  obtain ⟨hinc, hlim, hquarter⟩ := adaptive_of_paramsLegal hp hm
  have hq : quarter.toNat + 1 < 2 ^ 32 := by decide
  have hhalf : ∀ f ∈ fm.freq, ((f + 1#32) >>> 1).toNat = (f.toNat + 1) / 2 := fun f hf =>
    toNat_halved (by have := toNat_le_sum hf; omega)
  have hmap : (fm.freq.map fun f => (f + 1#32) >>> 1).map BitVec.toNat =
      (fm.freq.map BitVec.toNat).map fun f => (f + 1) / 2 := by
    rw [List.map_map, List.map_map]
    exact List.map_congr_left hhalf
  have hle : ((fm.freq.map fun f => (f + 1#32) >>> 1).map BitVec.toNat).sum ≤ limitOf p m := by
    have h2 := two_mul_sum_halved_le (fm.freq.map BitVec.toNat)
    have hprod : incOf p m + numSymbols m ≤ numSymbols m * incOf p m + 1 := by
      have := one_lt_numSymbols m
      nlinarith
    rw [List.length_map, hlen] at h2
    rw [hmap]
    omega
  have htot : (rescaled fm).totFreq.toNat =
      ((fm.freq.map fun f => (f + 1#32) >>> 1).map BitVec.toNat).sum :=
    toNat_sumWords (by omega)
  refine ⟨(List.length_map _).trans hlen, ?_, htot, htot.trans_le hle, fun h => absurd h hm⟩
  intro x hx
  obtain ⟨f, hf, rfl⟩ := List.mem_map.1 hx
  have := hpos f hf
  rw [hhalf f hf]
  omega

/-- An update (R142) keeps R146. -/
theorem modelOk_updatedModel (hp : paramsLegal p = true) (h : modelOk p m fm) {sym : Nat}
    (hsym : sym < fm.freq.length) : modelOk p m (updatedModel p m fm sym) := by
  unfold updatedModel
  by_cases hm : m = bogusModel
  · subst hm
    rw [incOf_bogusModel, if_pos rfl]
    exact h
  obtain ⟨hinc, hlim, hquarter⟩ := adaptive_of_paramsLegal hp hm
  obtain ⟨hlen, hpos, htot, hle, -⟩ := h
  have hq : quarter.toNat < 2 ^ 32 := by decide
  have hf := toNat_le_sum (getD_mem hsym)
  have hincn : (BitVec.ofNat 32 (incOf p m)).toNat = incOf p m := by
    rw [BitVec.toNat_ofNat, Nat.mod_eq_of_lt (by omega)]
  have hfreq : (freqAt fm sym + BitVec.ofNat 32 (incOf p m)).toNat =
      (fm.freq.getD sym 0#32).toNat + incOf p m := by
    rw [BitVec.toNat_add, hincn, freqAt, Nat.mod_eq_of_lt (by omega)]
  have hset := sum_map_toNat_set (freqAt fm sym + BitVec.ofNat 32 (incOf p m)) hsym
  have htot' : (bumped (incOf p m) fm sym).totFreq.toNat = fm.totFreq.toNat + incOf p m := by
    rw [bumped, BitVec.toNat_add, hincn, Nat.mod_eq_of_lt (by omega)]
  have hsum : (bumped (incOf p m) fm sym).totFreq.toNat =
      ((bumped (incOf p m) fm sym).freq.map BitVec.toNat).sum := by
    rw [htot']
    simp only [bumped]
    omega
  have hlen' : (bumped (incOf p m) fm sym).freq.length = numSymbols m :=
    (List.length_set ..).trans hlen
  have hpos' : ∀ f ∈ (bumped (incOf p m) fm sym).freq, 1 ≤ f.toNat := by
    intro f hmem
    rcases List.mem_or_eq_of_mem_set hmem with hmem | rfl
    · exact hpos f hmem
    · omega
  rw [if_neg (by omega)]
  dsimp only
  split
  next => exact modelOk_rescaled hp hm hlen' hpos' (by omega)
  next hfit => exact ⟨hlen', hpos', hsum, by omega, fun h => absurd h hm⟩

end Model

/-! ## All nine models -/

theorem modelsOk.model {s : State} (h : modelsOk s) (m : ModelId) :
    modelOk s.par m (s.models.getD m.val { totFreq := 0#32, freq := [] }) :=
  have ⟨_, _, hall⟩ := h
  hall m

theorem modelsOk.params {s : State} (h : modelsOk s) : paramsLegal s.par = true := h.1

/-- Writing one model that meets R146 keeps the others. -/
theorem modelsOk.set {s : State} (h : modelsOk s) {m : ModelId} {fm : FreqModel}
    (hm : modelOk s.par m fm) : modelsOk { s with models := s.models.set m.val fm } := by
  obtain ⟨hp, hlen, hall⟩ := h
  refine ⟨hp, (List.length_set ..).trans hlen, fun k => ?_⟩
  by_cases hk : k = m
  · subst hk
    have hlt : k.val < s.models.length := by omega
    simpa [modelAt, hlt] using hm
  · have hne : m.val ≠ k.val := fun h => hk (Fin.ext h.symm)
    simpa [modelAt, List.getD_eq_getElem?_getD, List.getElem?_set_ne hne] using hall k

/-- All nine models as `model.init` leaves them meet R146 (R197, R200). -/
theorem modelsOk_initialModels {s : State} (hp : paramsLegal s.par = true)
    (hs : s.models = initialModels s.par) : modelsOk s := by
  refine ⟨hp, by rw [hs]; rfl, fun m => ?_⟩
  have hm : modelAt s m = initialModel s.par m := by
    rw [modelAt, hs]
    revert m
    simp [initialModels, Fin.forall_fin_succ]
  rw [hm]
  exact modelOk_initialModel hp m

end Sys2Proof.Machine
end

/-! PROOFS. The arithmetic coder never stops the model: the range a symbol takes is not empty, renormalisation
doubles it back into `QUARTER < R <= HALF` within its bound, and the models keep R146. -/
section
namespace Sys2Proof.Machine

/-! ## The range of a symbol (R156, R166) -/

theorem half_in_range : quarter < half ∧ half ≤ half := by decide

/-- The range after a symbol of a model with total `tot`, whose part begins at `low` and is `f` wide. -/
def narrowed (r tot low f : Word) : Word :=
  if low + f < tot then r / tot * f else r - r / tot * low

/-- The range a symbol takes out of a renormalised range is not empty and not above it. -/
theorem narrowed_bounds {r tot low f : Word} (hr : quarter < r ∧ r ≤ half)
    (htot : tot.toNat ≤ quarter.toNat) (hf : 1 ≤ f.toNat)
    (hpart : low.toNat + f.toNat ≤ tot.toNat) :
    1 ≤ (narrowed r tot low f).toNat ∧ (narrowed r tot low f).toNat ≤ half.toNat := by
  obtain ⟨hlo, hhi⟩ := hr
  rw [BitVec.lt_def] at hlo
  rw [BitVec.le_def] at hhi
  have hhalf : half.toNat < 2 ^ 32 := by decide
  set step := r.toNat / tot.toNat with hstep
  have hstep1 : 1 ≤ step := (Nat.one_le_div_iff (by omega)).2 (by omega)
  have hmul : step * tot.toNat ≤ r.toNat := Nat.div_mul_le_self _ _
  have hdiv : (r / tot).toNat = step := BitVec.toNat_udiv
  have hmulw : ∀ x : Word, x.toNat ≤ tot.toNat → (r / tot * x).toNat = step * x.toNat := by
    intro x hx
    have : step * x.toNat ≤ step * tot.toNat := Nat.mul_le_mul_left _ hx
    rw [BitVec.toNat_mul, hdiv, Nat.mod_eq_of_lt (by omega)]
  unfold narrowed
  split
  · rw [hmulw f (by omega)]
    have hle : step * f.toNat ≤ step * tot.toNat := Nat.mul_le_mul_left _ (by omega)
    exact ⟨Nat.mul_pos hstep1 hf, by omega⟩
  · have hlow := hmulw low (by omega)
    have hlt : step * low.toNat + step ≤ step * tot.toNat := by
      rw [← Nat.mul_succ]
      exact Nat.mul_le_mul_left _ (by omega)
    rw [BitVec.toNat_sub_of_le (by rw [BitVec.le_def]; omega), hlow]
    omega

/-! ## What the coder leaves alone -/

/-- `I` speaks of nothing the coder writes: its registers, its ports and the models. -/
def CoderFree (I : State → Prop) : Prop :=
  ∀ (s : State) (l r bo d : Word) (bitIn bitOut : List Bool) (models : List FreqModel),
    I s → I { s with
      l := l, r := r, bo := bo, d := d, bitIn := bitIn, bitOut := bitOut, models := models }

/-- The models meet R146 and `I` holds. -/
def ModelsReady (I : State → Prop) (s : State) : Prop := modelsOk s ∧ I s

/-- The coder is ready for a symbol: R146, R157 (a), and `I` holds. -/
def CoderReady (I : State → Prop) (s : State) : Prop := ModelsReady I s ∧ rangeOk s

section Ready

variable {I : State → Prop} {s : State}

theorem ModelsReady.models (h : ModelsReady I s) : modelsOk s := h.1

theorem ModelsReady.rest (h : ModelsReady I s) : I s := h.2

theorem CoderReady.ready (h : CoderReady I s) : ModelsReady I s := h.1

theorem CoderReady.range (h : CoderReady I s) : rangeOk s := h.2

theorem CoderReady.models (h : CoderReady I s) : modelsOk s := h.ready.models

theorem CoderReady.rest (h : CoderReady I s) : I s := h.ready.rest

theorem CoderReady.mono {J : State → Prop} (h : CoderReady I s) (hJ : J s) : CoderReady J s :=
  ⟨⟨h.models, hJ⟩, h.range⟩

/-- A change of the coder's registers and ports alone. -/
theorem ModelsReady.registers (hI : CoderFree I) (h : ModelsReady I s) (l r bo d bitIn bitOut) :
    ModelsReady I { s with
      l := l, r := r, bo := bo, d := d, bitIn := bitIn, bitOut := bitOut } :=
  ⟨h.models, hI s l r bo d bitIn bitOut s.models h.rest⟩

/-- What ends the loops of R159 and R166: the range is above QUARTER and not above HALF. -/
theorem ModelsReady.coderReady (h : ModelsReady I s) (hq : ¬ s.r ≤ quarter)
    (hhalf : s.r.toNat ≤ half.toNat) : CoderReady I s :=
  ⟨h, BitVec.not_le.1 hq, BitVec.le_def.2 hhalf⟩

end Ready

theorem toNat_shiftLeft_one_of_le_quarter {r : Word} (h : r ≤ quarter) :
    (r <<< 1).toNat = 2 * r.toNat := by
  have hq : quarter.toNat < 2 ^ 31 := by decide
  rw [BitVec.le_def] at h
  rw [BitVec.toNat_shiftLeft, Nat.shiftLeft_eq]
  omega

/-- The scan of R166 finds a symbol with its lower total and its frequency. -/
theorem findSymbol_some {target : Word} : ∀ {l : List Word} {k sym : Nat} {start low f : Word},
    findSymbol target l k start = some (sym, low, f) →
    ∃ i, i < l.length ∧ sym = k + i ∧ low = start + sumWords (l.take i) ∧ f = l.getD i 0#32
  | [], _, _, _, _, _, h => by cases h
  | g :: l, k, sym, start, low, f, h => by
    rw [findSymbol] at h
    split at h
    · obtain ⟨i, hi, rfl, rfl, rfl⟩ := findSymbol_some h
      refine ⟨i + 1, by simpa using hi, by omega, ?_, by simp⟩
      rw [List.take_succ_cons, sumWords, BitVec.add_assoc]
    · cases h
      exact ⟨0, by simp, rfl, by simp [sumWords], rfl⟩

section Coder

variable {I R : State → Prop} {s : State}

variable (hI : CoderFree I) (hR : ∀ t, ModelsReady I t → R t)
include hI

theorem Safe.initAllModels (h : ModelsReady I s) :
    Safe R s initAllModels fun _ t => ModelsReady I t ∧ t.r = s.r :=
  .modify ⟨⟨modelsOk_initialModels h.models.params rfl,
    hI s s.l s.r s.bo s.d s.bitIn s.bitOut _ h.rest⟩, rfl⟩

/-! ## Bits -/

theorem Safe.bitPlusFollowOp (b : Bool) (h : ModelsReady I s) :
    Safe R s (bitPlusFollowOp b) fun _ t => ModelsReady I t ∧ t.r = s.r :=
  .modify ⟨h.registers hI _ _ _ _ _ _, rfl⟩

include hR

theorem Safe.pullBit (h : ModelsReady I s) :
    Safe R s pullBit fun _ t =>
      ModelsReady I t ∧ t.r = s.r ∧ t.bitIn.length + 1 = s.bitIn.length := by
  cases hb : s.bitIn with
  | cons b rest => exact .of_ok (pullBit_cons hb) ⟨h.registers hI _ _ _ _ _ _, rfl, rfl⟩
  | nil =>
    cases he : s.bitInEod with
    | true => exact .of_raise (pullBit_eod hb he) (hR s h)
    | false => exact .of_wait (pullBit_empty hb he)

/-! ## Encoder -/

theorem Safe.encDecideOp (h : ModelsReady I s) :
    Safe R s encDecideOp fun _ t => ModelsReady I t ∧ t.r = s.r := by
  have hupper : ModelsReady I { s with l := s.l - half } := h.registers hI _ _ _ _ _ _
  have hmiddle : ModelsReady I { s with l := s.l - quarter, bo := s.bo + 1#32 } :=
    h.registers hI _ _ _ _ _ _
  unfold Machine.encDecideOp
  exact .get (.ite (fun _ => .bitPlusFollowOp hI false h) fun _ =>
    .ite (fun _ => .set_bind (.bitPlusFollowOp hI true hupper)) fun _ =>
      .set_bind (.ite (fun _ => .raise (hR _ hmiddle)) fun _ => .pure ⟨hmiddle, rfl⟩))

/-- `k` doublings bring the range above QUARTER: the loop of R159 makes at most `k + 1` tests. -/
theorem Safe.encRenormLoop : ∀ (k : Nat) {s : State}, ModelsReady I s →
    s.r.toNat ≤ half.toNat → quarter.toNat < s.r.toNat * 2 ^ k →
    Safe R s (encRenormLoop (k + 1)) fun _ => CoderReady I
  | k, s, h, hhalf, hk => by
    rw [Machine.encRenormLoop]
    refine .get (.ite (fun hq => ?_) fun hq => .pure (h.coderReady hq hhalf))
    have hdouble := toNat_shiftLeft_one_of_le_quarter hq
    have htwice : 2 * quarter.toNat = half.toNat := by decide
    rw [BitVec.le_def] at hq
    cases k with
    | zero => omega
    | succ k =>
      refine .bind (.encDecideOp hI hR h) fun _ t ⟨ht, hr⟩ => .ok_bind (encShiftOp_apply t) ?_
      refine Safe.encRenormLoop k (ht.registers hI _ _ _ _ _ _) ?_ ?_
      · simp only [hr, hdouble]
        omega
      · simp only [hr, hdouble]
        rw [pow_succ] at hk
        linarith

omit hI in
theorem Safe.checkSymbol (m : ModelId) (sym : Nat) (h : ModelsReady I s) :
    Safe R s (checkSymbol m sym) fun _ t => t = s ∧ sym < numSymbols m :=
  .ite (fun hsym => .pure ⟨rfl, hsym⟩) fun _ => .raise (hR s h)

theorem Safe.modelUpdateOp (m : ModelId) (sym : Nat) (h : CoderReady I s) :
    Safe R s (modelUpdateOp m sym) fun _ => CoderReady I := by
  refine .bind (.checkSymbol hR m sym h.ready) ?_
  rintro _ t ⟨rfl, hsym⟩
  have hm := h.models.model m
  have hup := h.models.set (modelOk_updatedModel h.models.params hm (by rwa [hm.length_eq]))
  refine .get (.ok_bind (readModel_apply m t) (.of_ok (writeModel_apply m _ t) ?_))
  exact ⟨⟨hup, hI t t.l t.r t.bo t.d t.bitIn t.bitOut _ h.rest⟩, h.range⟩

/-- A symbol is encoded, or it raises a fault (R156). -/
theorem Safe.encodeOp (m : ModelId) (sym : Nat) (h : CoderReady I s) :
    Safe R s (encodeOp m sym) fun _ => CoderReady I := by
  refine .bind (.checkSymbol hR m sym h.ready) ?_
  rintro _ s ⟨rfl, hsym⟩
  have hm := h.models.model m
  have hp := h.models.params
  obtain ⟨hf, hpart⟩ := hm.symbol_part hp (by rwa [hm.length_eq])
  obtain ⟨hlo, hhi⟩ := narrowed_bounds h.range (hm.totFreq_le hp) hf hpart
  refine .ok_bind (readModel_apply m s) ?_
  refine .ok_bind (encNarrowOp_of_ne_zero (hm.totFreq_ne_zero hp) sym s) ?_
  refine .bind (.encRenormLoop hI hR 31 (h.ready.registers hI _ _ _ _ _ _) hhi ?_)
    fun _ t ht => .modelUpdateOp hI hR m sym ht
  have hbound : quarter.toNat < 2 ^ 31 := by decide
  exact hbound.trans_le (Nat.le_mul_of_pos_left _ hlo)

theorem Safe.putU8Op (b : Byte) (h : CoderReady I s) :
    Safe R s (putU8Op b) fun _ => CoderReady I :=
  .encodeOp hI hR bogusModel b.toNat h

theorem Safe.putU32Op (w : Word) (h : CoderReady I s) :
    Safe R s (putU32Op w) fun _ => CoderReady I :=
  .bind (.putU8Op hI hR _ h) fun _ _ h => .bind (.putU8Op hI hR _ h) fun _ _ h =>
    .bind (.putU8Op hI hR _ h) fun _ _ h => .putU8Op hI hR _ h

omit hR in
theorem Safe.encFlushOp (h : CoderReady I s) : Safe R s encFlushOp fun _ => CoderReady I := by
  unfold Machine.encFlushOp
  refine .loopDown (fun _ => CoderReady I) smallB h fun i t _ ht => ?_
  exact .get (.mono (.bitPlusFollowOp hI _ ht.ready) fun _ u ⟨hu, hr⟩ =>
    ⟨hu, by rw [rangeOk, hr]; exact ht.range⟩)

/-! ## Decoder -/

/-- The bits of `ac.dec_start` (R165): R is HALF. -/
theorem Safe.decStartOp (h : ModelsReady I s) : Safe R s decStartOp fun _ => CoderReady I := by
  have hstart : CoderReady I { s with r := half, d := 0#32 } :=
    ⟨h.registers hI _ _ _ _ _ _, half_in_range⟩
  unfold Machine.decStartOp
  refine .modify_bind (.loopUp (fun _ => CoderReady I) smallB 0 hstart fun i t _ _ ht => ?_)
  refine .bind (.pullBit hI hR ht.ready) fun b u ⟨hu, hr, _⟩ => .modify ?_
  exact ⟨hu.registers hI _ _ _ _ _ _, by rw [rangeOk, hr]; exact ht.range⟩

theorem Safe.pullWordBits : ∀ (k : Nat) (w : Word) {s : State}, CoderReady I s →
    Safe R s (pullWordBits k w) fun _ => CoderReady I
  | 0, _, _, h => .pure h
  | k + 1, _, s, h =>
    .bind (.pullBit hI hR h.ready) fun _ _ ⟨hu, hr, _⟩ =>
      Safe.pullWordBits k _ ⟨hu, by rw [rangeOk, hr]; exact h.range⟩

/-- The loop of R166 step 4 pulls a bit a pass, so it ends, in a range or at the end of the port. -/
theorem Safe.decRenormLoop : ∀ (fuel : Nat) {s : State}, ModelsReady I s →
    1 ≤ s.r.toNat → s.r.toNat ≤ half.toNat → s.bitIn.length < fuel →
    Safe R s (decRenormLoop fuel) fun _ => CoderReady I
  | 0, _, _, _, _, hfuel => absurd hfuel (Nat.not_lt_zero _)
  | fuel + 1, s, h, hpos, hhalf, hfuel => by
    rw [Machine.decRenormLoop]
    refine .get (.ite (fun hq => ?_) fun hq => .pure (h.coderReady hq hhalf))
    have hdouble := toNat_shiftLeft_one_of_le_quarter hq
    have htwice : 2 * quarter.toNat = half.toNat := by decide
    rw [BitVec.le_def] at hq
    refine .bind (.pullBit hI hR h) fun b t ⟨ht, hr, hlen⟩ => .modify_bind ?_
    refine Safe.decRenormLoop fuel (ht.registers hI _ _ _ _ _ _) ?_ ?_ ?_
    · simp only [hr, hdouble]
      omega
    · simp only [hr, hdouble]
      omega
    · simp only
      omega

/-- A symbol of the model is decoded, or a fault is raised, or the port waits (R166). -/
theorem Safe.decodeOp (m : ModelId) (h : CoderReady I s) :
    Safe R s (decodeOp m) fun sym t => CoderReady I t ∧ sym < numSymbols m := by
  have hm := h.models.model m
  have hp := h.models.params
  unfold Machine.decodeOp
  refine .ok_bind (readModel_apply m s) (.get ?_)
  generalize s.models.getD m.val { totFreq := 0#32, freq := [] } = fm at hm
  have htot := hm.totFreq_pos hp
  have hle := hm.totFreq_le hp
  obtain ⟨hlo, hhi⟩ := h.range
  rw [BitVec.lt_def] at hlo
  have hstep : s.r / fm.totFreq ≠ 0#32 := fun h0 => by
    have hdiv : (s.r / fm.totFreq).toNat = s.r.toNat / fm.totFreq.toNat := BitVec.toNat_udiv
    have hpos : 0 < s.r.toNat / fm.totFreq.toNat := Nat.div_pos (by omega) htot
    rw [h0] at hdiv
    exact hpos.ne hdiv
  refine .no_defect (hm.totFreq_ne_zero hp) (.no_defect hstep ?_)
  split
  next => exact .raise (hR s h.ready)
  next sym low f hfind =>
    obtain ⟨i, hi, rfl, rfl, rfl⟩ := findSymbol_some hfind
    have hsym : 0 + i < numSymbols m := by rwa [Nat.zero_add, ← hm.length_eq]
    obtain ⟨hf, hpart⟩ := hm.symbol_part hp hi
    have hlow : 0#32 + sumWords (fm.freq.take i) = lowCum fm i := BitVec.zero_add _
    rw [hlow]
    obtain ⟨hlo', hhi'⟩ := narrowed_bounds h.range hle hf hpart
    refine .set_bind (.bind (Q := fun _ => CoderReady I) ?renorm fun _ t ht =>
      .bind (.modelUpdateOp hI hR m _ ht) fun _ u hu => .pure ⟨hu, hsym⟩)
    exact .get (.decRenormLoop hI hR _ (h.ready.registers hI _ _ _ _ _ _) hlo' hhi'
      (Nat.lt_succ_self _))

theorem Safe.getU8Op (h : CoderReady I s) : Safe R s getU8Op fun _ => CoderReady I :=
  .bind (.decodeOp hI hR bogusModel h) fun _ _ ⟨h, _⟩ => .pure h

theorem Safe.getU32Op (h : CoderReady I s) : Safe R s getU32Op fun _ => CoderReady I :=
  .bind (.getU8Op hI hR h) fun _ _ h => .bind (.getU8Op hI hR h) fun _ _ h =>
    .bind (.getU8Op hI hR h) fun _ _ h => .bind (.getU8Op hI hR h) fun _ _ h => .pure h

end Coder
end Sys2Proof.Machine
end

/-! PROOFS. The block codec never stops the model: ENCODE reads within the block, and DECODE stays within CAP
by the checks of R201 and R202, so every symbol but EOB brings it nearer to CAP. -/
section
namespace Sys2Proof.Machine

/-! ## What the bounds of a phase rest on -/

/-- What a fault in a phase must leave: `N <= CAPMAX`, and nothing on QSTACK. -/
def Bounded (s : State) : Prop := s.n.toNat ≤ capMax s.par ∧ s.qstack = []

/-- A legal level beside the bounds. -/
def LevelHeld (s : State) : Prop := levelFits s ∧ Bounded s

/-- The block of length `n` is there, and QSTACK is empty. -/
def BlockHeld (n : Word) (s : State) : Prop := blockFits s ∧ s.qstack = [] ∧ s.n = n

theorem capOf_le_capMax {s : State} (h : levelFits s) : capOf s ≤ capMax s.par :=
  Nat.mul_le_mul_left _ h.2

theorem LevelHeld.level {s : State} (h : LevelHeld s) : levelFits s := h.1

theorem LevelHeld.bounded {s : State} (h : LevelHeld s) : Bounded s := h.2

theorem BlockHeld.fits {n : Word} {s : State} (h : BlockHeld n s) : blockFits s := h.1

theorem BlockHeld.n_eq {n : Word} {s : State} (h : BlockHeld n s) : s.n = n := h.2.2

theorem BlockHeld.levelHeld {n : Word} {s : State} (h : BlockHeld n s) : LevelHeld s := by
  obtain ⟨⟨hlevel, -, hn⟩, hq, -⟩ := h
  exact ⟨hlevel, hn.trans (capOf_le_capMax hlevel), hq⟩

/-- `CAPMAX <= 900000` (R11). -/
theorem capMax_le {s : State} (h : modelsOk s) : capMax s.par ≤ 900000 := by
  have := maxLevel_of_paramsLegal h.params
  simp only [capMax, blockUnit]
  omega

section Codec

variable {s : State}

/-! ## The list (R37) -/

theorem mem_of_listOk (h : listOk s) (b : Byte) : b ∈ s.yy := by
  rw [List.Perm.mem_iff h]
  exact List.mem_map.2 ⟨b.toNat, List.mem_range.2 b.isLt, BitVec.ofNat_toNat ..⟩

theorem length_of_listOk (h : listOk s) : s.yy.length = 256 := by
  rw [List.Perm.length_eq h]
  simp [initialList]

/-! ## Encoder -/

/-- What ENCODE rests on: the block and the list. -/
def EncodeHeld (n : Word) (s : State) : Prop := BlockHeld n s ∧ listOk s

theorem EncodeHeld.block {n : Word} {s : State} (h : EncodeHeld n s) : BlockHeld n s := h.1

theorem coderFree_encodeHeld (n : Word) : CoderFree (EncodeHeld n) :=
  fun _ _ _ _ _ _ _ _ h => h

theorem EncodeHeld.faultReady {n : Word} (t : State) (h : ModelsReady (EncodeHeld n) t) :
    ModelsReady Bounded t :=
  ⟨h.models, h.rest.block.levelHeld.bounded⟩

variable {n : Word}

theorem Safe.sendDigits : ∀ (digits : List RunDigit) {s : State}, CoderReady (EncodeHeld n) s →
    Safe (ModelsReady Bounded) s (sendDigits digits) fun _ => CoderReady (EncodeHeld n)
  | [], _, h => .pure h
  | _ :: rest, _, h =>
    .bind (.encodeOp (coderFree_encodeHeld n) EncodeHeld.faultReady _ _ h) fun _ _ h =>
      Safe.sendDigits rest h

theorem Safe.flushZpOp (h : CoderReady (EncodeHeld n) s) :
    Safe (ModelsReady Bounded) s flushZpOp fun _ => CoderReady (EncodeHeld n) :=
  .get (.bind (.sendDigits _ h) fun _ _ h => .modify h)

/-- A rank other than 0 is sent as one symbol or two (R194). -/
theorem Safe.sendValOp {v : Nat} (hv : v ≠ 0) (h : CoderReady (EncodeHeld n) s) :
    Safe (ModelsReady Bounded) s (sendValOp v) fun _ => CoderReady (EncodeHeld n) := by
  have hsend : ∀ m sym {t : State}, CoderReady (EncodeHeld n) t →
      Safe (ModelsReady Bounded) t (Machine.encodeOp m sym) fun _ => CoderReady (EncodeHeld n) :=
    fun m sym _ => .encodeOp (coderFree_encodeHeld n) EncodeHeld.faultReady m sym
  rw [Machine.sendValOp, if_neg hv]
  exact .ite (fun _ => hsend _ _ h) fun _ => .bind (hsend _ _ h) fun _ _ h => hsend _ _ h

/-- `ll(k)` lies within the block (R196). -/
theorem Safe.lastColumn {k : Nat} (hk : k < n.toNat) (h : CoderReady (EncodeHeld n) s) :
    Safe (ModelsReady Bounded) s (lastColumn k) fun _ => CoderReady (EncodeHeld n) := by
  obtain ⟨hmax, -⟩ := h.rest.block.levelHeld.bounded
  obtain ⟨-, -, rfl⟩ := h.rest.block
  refine .get (.ok_bind (readZptr_of_lt (hk.trans_le hmax)) (.of_ok (readBlock_of_lt ?_) h))
  have hmod : precedingPos (arrGet s.zptr k).toNat s.n.toNat < s.n.toNat :=
    Nat.mod_lt _ (by omega)
  exact hmod.trans_le (hmax.trans (Nat.le_add_right ..))

/-- A byte of the list moves to its front; the list holds every byte (R192, R37). -/
theorem Safe.mtfRankOp (b : Byte) (h : CoderReady (EncodeHeld n) s) :
    Safe (ModelsReady Bounded) s (mtfRankOp b) fun _ => CoderReady (EncodeHeld n) := by
  obtain ⟨hblock, hlist⟩ := h.rest
  have hb := mem_of_listOk hlist b
  have hget : s.yy[s.yy.idxOf b]? = some b := by
    simp [List.getElem?_eq_getElem (List.idxOf_lt_length_of_mem hb)]
  exact .of_ok (mtfRankOp_of_mem hb)
    ⟨⟨h.models, hblock, (perm_moveToFront hget).trans hlist⟩, h.range⟩

theorem Safe.encodePass {k : Nat} (hk : k < n.toNat) (h : CoderReady (EncodeHeld n) s) :
    Safe (ModelsReady Bounded) s (encodePass k) fun _ => CoderReady (EncodeHeld n) :=
  .bind (.lastColumn hk h) fun _ _ h => .bind (.mtfRankOp _ h) fun _ _ h =>
    .ite (fun _ => .modify h) fun hj => .bind (.flushZpOp h) fun _ _ h => .sendValOp hj h

/-- ENCODE ends, or raises a fault, with the block as it was (R197). -/
theorem Safe.encodeBlockOp (h : CoderReady (EncodeHeld n) s) :
    Safe (ModelsReady Bounded) s encodeBlockOp fun _ => CoderReady (EncodeHeld n) := by
  have hfree := coderFree_encodeHeld n
  have hraise := EncodeHeld.faultReady (n := n)
  refine .bind (.initAllModels hfree h.ready) fun _ t ⟨ht, hr⟩ => ?_
  have hinit : CoderReady (EncodeHeld n) { t with yy := initialList, zp := 0#32 } :=
    ⟨⟨ht.models, ht.rest.block, .refl _⟩, by rw [rangeOk, hr]; exact h.range⟩
  refine .modify_bind (.modify_bind (.get ?_))
  refine .bind (.putU32Op hfree hraise _ hinit) fun _ u hu => ?_
  have hn : t.n = n := ht.rest.block.n_eq
  refine .bind (.loopUp (fun _ => CoderReady (EncodeHeld n)) _ _ hu fun j v _ hj hv =>
    .encodePass (by simpa [hn] using hj) hv) fun _ v hv => ?_
  exact .bind (.flushZpOp hv) fun _ _ h => .encodeOp hfree hraise _ _ h

/-! ## Decoder -/

/-- What DECODE rests on: the level, so that CAP is `cap`, and the list. -/
def DecodeHeld (cap : Nat) (s : State) : Prop := LevelHeld s ∧ capOf s = cap ∧ listOk s

/-- The run in progress (R201): what is stored and what is pending stay within CAP; RUNW is not above the
pending run by more than 1, so it cannot overflow; and at least `k` places are taken. -/
def RunHeld (cap k : Nat) (s : State) : Prop :=
  DecodeHeld cap s ∧ s.pos.toNat + s.runacc.toNat ≤ cap ∧ 1 ≤ s.runw.toNat ∧
    s.runw.toNat ≤ s.runacc.toNat + 1 ∧ k ≤ s.pos.toNat + s.runacc.toNat

variable {cap k : Nat}

theorem DecodeHeld.level (h : DecodeHeld cap s) : LevelHeld s := h.1

theorem DecodeHeld.capOf_eq (h : DecodeHeld cap s) : capOf s = cap := h.2.1

theorem DecodeHeld.list (h : DecodeHeld cap s) : listOk s := h.2.2

theorem RunHeld.held (h : RunHeld cap k s) : DecodeHeld cap s := h.1

theorem coderFree_runHeld : CoderFree (RunHeld cap k) := fun _ _ _ _ _ _ _ _ h => h

theorem RunHeld.faultReady (t : State) (h : ModelsReady (RunHeld cap k) t) :
    ModelsReady Bounded t :=
  ⟨h.models, h.rest.held.level.bounded⟩

theorem DecodeHeld.cap_le (h : CoderReady (DecodeHeld cap) s) :
    cap ≤ capMax s.par ∧ capMax s.par ≤ 900000 := by
  obtain ⟨⟨hlevel, -⟩, hcap, -⟩ := h.rest
  exact ⟨hcap ▸ capOf_le_capMax hlevel, capMax_le h.models⟩

/-- A run digit makes the run longer, or it overruns the block (R201). -/
theorem Safe.absorbOp (d : RunDigit) (h : CoderReady (RunHeld cap k) s) :
    Safe (ModelsReady Bounded) s (absorbOp d) fun _ => CoderReady (RunHeld cap (k + 1)) := by
  obtain ⟨hheld, hsum, hw1, hw, hk⟩ := h.rest
  obtain ⟨hcap, hmax⟩ := DecodeHeld.cap_le (h.mono hheld)
  have hcapOf : capOf s = cap := hheld.capOf_eq
  have hrunw : (s.runw <<< 1).toNat = 2 * s.runw.toNat := by
    rw [BitVec.toNat_shiftLeft, Nat.shiftLeft_eq]
    omega
  refine .modify_bind ?_
  generalize hadd : s.runacc + _ = runacc
  have hrunacc : s.runacc.toNat + s.runw.toNat ≤ runacc.toNat := by
    subst hadd
    cases d <;> simp only [BitVec.toNat_add, BitVec.toNat_mul, BitVec.toNat_ofNat] <;> omega
  refine .get (.ite (fun _ => .raise ⟨h.models, hheld.level.bounded⟩) fun hfit => .pure ?_)
  replace hfit : ¬ cap < s.pos.toNat + runacc.toNat := fun hlt => hfit (by rwa [← hcapOf] at hlt)
  refine ⟨⟨h.models, hheld, ?_, ?_, ?_, ?_⟩, h.range⟩ <;> dsimp only <;> omega

/-- Within CAP a byte is appended to LL (R200). -/
theorem Safe.appendLl (b : Byte) (h : CoderReady (DecodeHeld cap) s) (hpos : s.pos.toNat < cap) :
    Safe (ModelsReady Bounded) s (appendLl b) fun _ t =>
      CoderReady (DecodeHeld cap) t ∧ t.pos.toNat = s.pos.toNat + 1 ∧ t.runacc = s.runacc ∧
        t.runw = s.runw := by
  obtain ⟨hcap, hmax⟩ := DecodeHeld.cap_le h
  refine .of_ok (appendLl_of_lt (by omega)) ⟨h, ?_, rfl, rfl⟩
  simp only [BitVec.toNat_add, BitVec.toNat_ofNat]
  omega

/-- The end of a run stores it: nothing stays pending (R200). -/
theorem Safe.flushRunOp (h : CoderReady (RunHeld cap k) s) :
    Safe (ModelsReady Bounded) s flushRunOp fun _ t =>
      CoderReady (RunHeld cap k) t ∧ t.runacc = 0#32 := by
  obtain ⟨hheld, hsum, hw1, hw, hk⟩ := h.rest
  refine .get (.ite (fun h0 => .pure ⟨h, h0⟩) fun _ => ?_)
  refine .bind (.repeatTimes (fun j t => CoderReady (DecodeHeld cap) t ∧
      t.pos.toNat + j = s.pos.toNat + s.runacc.toNat) _ ⟨h.mono hheld, rfl⟩
    fun j t _ ⟨ht, hj⟩ => ?_) fun _ t ⟨ht, hj⟩ => .modify ⟨⟨⟨ht.models, ?_⟩, ht.range⟩, rfl⟩
  · exact .mono (.appendLl _ ht (by omega)) fun _ u ⟨hu, hpos, _⟩ => ⟨hu, by omega⟩
  · refine ⟨ht.rest, ?_, ?_, ?_, ?_⟩ <;> simp only [BitVec.toNat_ofNat] <;> omega

/-- A value is stored, or it overruns the block (R200, R202). -/
theorem Safe.storeValueOp {v : Nat} (hv : v < 256) (h : CoderReady (RunHeld cap k) s)
    (h0 : s.runacc = 0#32) :
    Safe (ModelsReady Bounded) s (storeValueOp v) fun _ => CoderReady (RunHeld cap (k + 1)) := by
  obtain ⟨hheld, -, hw1, hw, hk⟩ := h.rest
  have hcapOf : capOf s = cap := hheld.capOf_eq
  have hvlen : v < s.yy.length := by rwa [length_of_listOk hheld.list]
  have hget : s.yy[v]? = some (s.yy.getD v 0#8) := by simp [hvlen]
  unfold Machine.storeValueOp
  refine .get (.check (fun _ => RunHeld.faultReady s h.ready) fun hfit => ?_)
  have hmove : CoderReady (DecodeHeld cap)
      { s with yy := moveToFront s.yy v (s.yy.getD v 0#8) } :=
    ⟨⟨h.models, hheld.level, hcapOf, (perm_moveToFront hget).trans hheld.list⟩, h.range⟩
  refine .ok_bind (mtfTakeOp_of_lt hvlen) (.mono (.appendLl _ hmove ?_) ?_)
  · dsimp only
    omega
  · rintro _ t ⟨ht, hpos, hacc, hrunw⟩
    dsimp only at hpos hacc hrunw
    rw [h0] at hacc hw hk
    simp only [BitVec.toNat_ofNat] at hw hk
    rw [← hrunw] at hw hw1
    have hacc0 : t.runacc.toNat = 0 := by rw [hacc]; rfl
    refine ht.mono ⟨ht.rest, ?_, ?_, ?_, ?_⟩ <;> omega

/-- The classes of the basis symbols `2_3` to `128_255` and their models (R101). -/
theorem numSymbols_classModel {c : Nat} (h1 : 1 ≤ c) (h7 : c ≤ 7) :
    numSymbols (classModel c) = 2 ^ c := by
  interval_cases c <;> rfl

/-- A basis symbol brings DECODE nearer to CAP, or it is EOB (R200). -/
theorem Safe.basisReceived {sym : Nat} (hsym : sym < numSymbols basisModel)
    (h : CoderReady (RunHeld cap k) s) :
    Safe (ModelsReady Bounded) s (basisReceived sym) fun eob =>
      CoderReady (RunHeld cap (if eob then k else k + 1)) := by
  refine .ite (fun _ => .bind (.absorbOp _ h) fun _ _ h => .pure h) fun hruna =>
    .ite (fun _ => .bind (.absorbOp _ h) fun _ _ h => .pure h) fun hrunb =>
      .bind (.flushRunOp h) fun _ t ⟨ht, h0⟩ => .ite (fun _ => .pure ht) fun heob =>
        .ite (fun _ => .bind (.storeValueOp (by decide) ht h0) fun _ _ h => .pure h) fun hone => ?_
  have hsym11 : sym < 11 := hsym
  simp only [symRuna, symRunb, symEob, symOne] at hruna hrunb heob hone
  have hfree : CoderFree fun s => RunHeld cap k s ∧ s.runacc = 0#32 :=
    fun _ _ _ _ _ _ _ _ h => h
  refine .bind (.decodeOp hfree (fun t h => RunHeld.faultReady t ⟨h.models, h.rest.1⟩) _
    (ht.mono ⟨ht.rest, h0⟩)) fun off u ⟨hu, hoff⟩ => ?_
  obtain ⟨hrun, hu0⟩ := hu.rest
  rw [numSymbols_classModel (by omega) (by omega)] at hoff
  have hpow : 2 ^ (sym - 2) ≤ 2 ^ 7 := Nat.pow_le_pow_right (by decide) (by omega)
  exact .bind (.storeValueOp (by omega) (hu.mono hrun) hu0) fun _ _ h => .pure h

/-- Every symbol but EOB takes a place within CAP, so more symbols than places cannot come (R200). -/
theorem Safe.decodeLoop : ∀ (fuel k : Nat) {s : State}, CoderReady (RunHeld cap k) s →
    cap < fuel + k →
    Safe (ModelsReady Bounded) s (decodeLoop fuel) fun _ => CoderReady (RunHeld cap 0)
  | 0, k, s, h, hfuel => by
    obtain ⟨-, hsum, -, -, hk⟩ := h.rest
    omega
  | fuel + 1, k, s, h, hfuel => by
    refine .bind (.decodeOp coderFree_runHeld RunHeld.faultReady _ h) fun sym t ⟨ht, hsym⟩ =>
      .bind (.basisReceived hsym ht) fun eob u hu =>
        .ite (fun _ => .pure (hu.mono ?_)) fun heob => ?_
    · obtain ⟨hheld, hsum, hw1, hw, -⟩ := hu.rest
      exact ⟨hheld, hsum, hw1, hw, Nat.zero_le _⟩
    · rw [if_neg heob] at hu
      exact Safe.decodeLoop fuel (k + 1) hu (by omega)

/-- `check_origptr` leaves a block that is not empty (R203). -/
theorem Safe.checkOrigptrOp (mag : Word) (h : CoderReady LevelHeld s) (hn : s.n.toNat ≤ capOf s) :
    Safe (ModelsReady Bounded) s (checkOrigptrOp mag) fun _ t => CoderReady (BlockHeld t.n) t := by
  refine .get (.ite (fun _ => .raise ⟨h.models, h.rest.bounded⟩) fun hok => .modify ?_)
  have hpos : 1 ≤ s.n.toNat := by
    have := (not_or.1 hok).2
    rw [BitVec.not_le, BitVec.lt_def] at this
    omega
  obtain ⟨hlevel, -, hq⟩ := h.rest
  exact ⟨⟨h.models, ⟨hlevel, hpos, hn⟩, hq, rfl⟩, h.range⟩

/-- DECODE ends with a block, or raises a fault, or waits (R200). -/
theorem Safe.decodeBlockOp (h : CoderReady LevelHeld s) (hlist : listOk s) :
    Safe (ModelsReady Bounded) s decodeBlockOp fun _ t => CoderReady (BlockHeld t.n) t := by
  have hfree : CoderFree fun t => LevelHeld t ∧ listOk t := fun _ _ _ _ _ _ _ _ h => h
  refine .bind (.initAllModels hfree (h.mono ⟨h.rest, hlist⟩).ready) fun _ t ⟨ht, hr⟩ => ?_
  have hinit : CoderReady (RunHeld (capOf t) 0)
      { t with yy := initialList, runacc := 0#32, runw := 1#32, pos := 0#32 } :=
    ⟨⟨ht.models, ⟨ht.rest.1, rfl, .refl _⟩, by simp, by simp, by simp, by simp⟩, by
      rw [rangeOk, hr]
      exact h.range⟩
  refine .modify_bind (.modify_bind ?_)
  refine .bind (.getU32Op coderFree_runHeld RunHeld.faultReady hinit) fun w u hu => ?_
  have hcap : capOf u = capOf t := hu.rest.held.capOf_eq
  refine .ok_bind (origwordReceived_apply w u) (.get ?_)
  have hfuel : capOf t < capOf u + 2 + 0 := by omega
  refine .bind (.decodeLoop _ 0 hu hfuel) fun _ v hv => ?_
  obtain ⟨⟨⟨hlevel, -, hq⟩, hvcap, -⟩, hsum, -⟩ := hv.rest
  have hpos : v.pos.toNat ≤ capOf v := by omega
  exact .modify_bind (.checkOrigptrOp _
    ⟨⟨hv.models, hlevel, hpos.trans (capOf_le_capMax hlevel), hq⟩, hv.range⟩ hpos)

end Codec
end Sys2Proof.Machine
end

/-! PROOFS. Loading, unloading, the spots and the inverse transform never stop the model: every index they form
lies within the block. -/
section
namespace Sys2Proof.Machine

section Block

variable {s : State} {n : Word} {cap : Nat}

/-- The block lies within CAPMAX. -/
theorem BlockHeld.n_le (h : CoderReady (BlockHeld n) s) : n.toNat ≤ capMax s.par := by
  obtain ⟨hmax, -⟩ := h.rest.levelHeld.bounded
  obtain ⟨-, -, rfl⟩ := h.rest
  exact hmax

theorem BlockHeld.lt_blockSize (h : CoderReady (BlockHeld n) s) {i : Nat} (hi : i < n.toNat) :
    i < blockSize s :=
  hi.trans_le ((BlockHeld.n_le h).trans (Nat.le_add_right ..))

theorem BlockHeld.faultReady (h : CoderReady (BlockHeld n) s) : ModelsReady Bounded s :=
  ⟨h.models, h.rest.levelHeld.bounded⟩

/-! ## The spots (R275) -/

theorem spotStep_bounds (i : BitVec 4) :
    1 ≤ spotStep (spotSeq.getD i.toNat 0) ∧ spotStep (spotSeq.getD i.toNat 0) ≤ 8068 := by
  revert i
  decide

/-- A visit lies within the block and moves on. -/
theorem Safe.spotVisit (delta : SpotDelta) (h : CoderReady (BlockHeld n) s)
    (hpos : s.spos.toNat < n.toNat) :
    Safe (ModelsReady Bounded) s (spotVisit delta) fun _ t =>
      CoderReady (BlockHeld n) t ∧ s.spos.toNat + 1 ≤ t.spos.toNat := by
  have hlt := BlockHeld.lt_blockSize h hpos
  obtain ⟨hstep1, hstep⟩ := spotStep_bounds s.sidx
  have hn := BlockHeld.n_le h
  have hmax := capMax_le h.models
  refine .get (.ok_bind (readBlock_of_lt hlt) (.ok_bind (writeBlock_of_lt hlt) (.modify ⟨h, ?_⟩)))
  simp only [BitVec.toNat_add, BitVec.toNat_ofNat]
  omega

/-- Every visit raises SPOS, so the tests of R275 suffice to bring it past N. -/
theorem Safe.spotLoop (delta : SpotDelta) : ∀ (fuel : Nat) {s : State},
    CoderReady (BlockHeld n) s → n.toNat ≤ fuel + s.spos.toNat →
    Safe (ModelsReady Bounded) s (spotLoop delta (fuel + 1)) fun _ => CoderReady (BlockHeld n)
  | fuel, s, h, hfuel => by
    have hn : s.n = n := h.rest.n_eq
    refine .get (.ite (fun hlt => ?_) fun _ => .pure h)
    rw [hn] at hlt
    cases fuel with
    | zero => omega
    | succ fuel =>
      exact .bind (.spotVisit delta h (by omega)) fun _ t ⟨ht, hspos⟩ =>
        Safe.spotLoop delta fuel ht (by omega)

theorem Safe.spotApplyOp (delta : SpotDelta) (h : CoderReady (BlockHeld n) s) :
    Safe (ModelsReady Bounded) s (spotApplyOp delta) fun _ => CoderReady (BlockHeld n) := by
  have hn : s.n = n := h.rest.n_eq
  refine .modify_bind (.get (.spotLoop delta _ h ?_))
  rw [← hn]
  exact Nat.le_add_right ..

/-! ## Loading a block (R262) -/

/-- What LOAD_RLE rests on: the level, so that CAP is `cap`. -/
def LoadHeld (cap : Nat) (s : State) : Prop := LevelHeld s ∧ capOf s = cap

theorem LoadHeld.capOf_eq (h : LoadHeld cap s) : capOf s = cap := h.2

theorem LoadHeld.cap_le (h : CoderReady (LoadHeld cap) s) :
    100000 ≤ cap ∧ cap ≤ capMax s.par ∧ capMax s.par ≤ 900000 := by
  obtain ⟨⟨hlevel, -⟩, rfl⟩ := h.rest
  have h1 : 1 ≤ s.level.toNat := hlevel.1
  refine ⟨?_, capOf_le_capMax hlevel, capMax_le h.models⟩
  simp only [capOf, blockUnit]
  omega

/-- Within CAP a byte is appended to BLOCK. -/
theorem Safe.appendBlock (b : Byte) (h : CoderReady (LoadHeld cap) s) (hpos : s.pos.toNat < cap) :
    Safe (ModelsReady Bounded) s (appendBlock b) fun _ t =>
      CoderReady (LoadHeld cap) t ∧ t.pos.toNat = s.pos.toNat + 1 := by
  obtain ⟨-, hcap, hmax⟩ := LoadHeld.cap_le h
  have hlt : s.pos.toNat < blockSize s := by
    unfold blockSize
    omega
  refine .of_ok (appendBlock_of_lt hlt) ⟨h, ?_⟩
  simp only [BitVec.toNat_add, BitVec.toNat_ofNat]
  omega

theorem Safe.appendBlock_repeat (b : Byte) (r : Nat) (h : CoderReady (LoadHeld cap) s)
    (hpos : s.pos.toNat + r ≤ cap) :
    Safe (ModelsReady Bounded) s (Machine.repeatTimes (Machine.appendBlock b) r) fun _ t =>
      CoderReady (LoadHeld cap) t ∧ t.pos.toNat = s.pos.toNat + r := by
  refine .mono (.repeatTimes (fun j t => CoderReady (LoadHeld cap) t ∧
      t.pos.toNat + j = s.pos.toNat + r) r ⟨h, rfl⟩ fun j t _ ⟨ht, hj⟩ => ?_)
    fun _ t ht => ht
  exact .mono (.appendBlock b ht (by omega)) fun _ u ⟨hu, hu1⟩ => ⟨hu, by omega⟩

theorem Safe.emitSentinelOp (h : CoderReady (LoadHeld cap) s) (hpos : s.pos.toNat < cap) :
    Safe (ModelsReady Bounded) s emitSentinelOp fun _ t =>
      CoderReady (LoadHeld cap) t ∧ t.pos.toNat = s.pos.toNat + 1 :=
  .bind (.appendBlock _ h hpos) fun _ _ ht => .modify ht

/-- The unit of a run takes one to five places (R105). -/
theorem Safe.emitRunOp (c : Byte) {run : Nat} (hrun : 1 ≤ run) (h : CoderReady (LoadHeld cap) s)
    (hpos : s.pos.toNat + 5 ≤ cap) :
    Safe (ModelsReady Bounded) s (emitRunOp c run) fun _ t =>
      CoderReady (LoadHeld cap) t ∧ s.pos.toNat + 1 ≤ t.pos.toNat ∧
        t.pos.toNat ≤ s.pos.toNat + 5 := by
  refine .ite (fun hshort => ?_) fun _ => ?_
  · have hlt : run < 4 := hshort
    exact .mono (.appendBlock_repeat c run h (by omega)) fun _ t ⟨ht, hpos⟩ => ⟨ht, by omega⟩
  · refine .bind (.appendBlock_repeat c 4 h (by omega)) fun _ t ⟨ht, hpos⟩ => ?_
    exact .mono (.appendBlock _ ht (by omega)) fun _ u ⟨hu, hu1⟩ => ⟨hu, by omega⟩

/-- A pull leaves the block and its length. -/
theorem Safe.pullByte (h : CoderReady (LoadHeld cap) s) :
    Safe (ModelsReady Bounded) s pullByte fun _ t =>
      CoderReady (LoadHeld cap) t ∧ t.pos = s.pos := by
  cases hb : s.byteIn with
  | cons b rest => exact .of_ok (pullByte_cons hb) ⟨h, rfl⟩
  | nil =>
    cases he : s.byteInEod with
    | true => exact .of_ok (pullByte_eod hb he) ⟨h, rfl⟩
    | false => exact .of_wait (pullByte_empty hb he)

theorem Safe.firstOfRun (h : CoderReady (LoadHeld cap) s) :
    Safe (ModelsReady Bounded) s firstOfRun fun _ t =>
      CoderReady (LoadHeld cap) t ∧ t.pos = s.pos := by
  refine .get (.ite (fun _ => .set_bind (.pure ⟨h, rfl⟩)) fun _ => .bind (.pullByte h) ?_)
  rintro (_ | b) t ht
  · exact .modify_bind (.pure ht)
  · exact .pure ht

/-- A run grows from the length it has. -/
theorem Safe.extendRun (c : Byte) : ∀ (room run : Nat) {s : State}, CoderReady (LoadHeld cap) s →
    Safe (ModelsReady Bounded) s (extendRun c room run) fun run' t =>
      run ≤ run' ∧ CoderReady (LoadHeld cap) t ∧ t.pos = s.pos
  | 0, run, s, h => .pure ⟨le_rfl, h, rfl⟩
  | room + 1, run, s, h => by
    refine .bind (.pullByte h) ?_
    rintro (_ | b) t ⟨ht, hpos⟩
    · exact .modify_bind (.pure ⟨le_rfl, ht, hpos⟩)
    · refine .ite (fun _ => ?_) fun _ => .modify_bind (.pure ⟨le_rfl, ht, hpos⟩)
      exact .mono (Safe.extendRun c room (run + 1) ht) fun _ u ⟨hle, hu, hu1⟩ =>
        ⟨by omega, hu, hu1.trans hpos⟩

/-- A pass of the loader lengthens the block, or it is the last: then the block is not empty (R262). -/
theorem Safe.loadPass (h : CoderReady (LoadHeld cap) s) (hpos : s.pos.toNat ≤ cap) :
    Safe (ModelsReady Bounded) s loadPass fun leave t =>
      CoderReady (LoadHeld cap) t ∧ t.pos.toNat ≤ cap ∧
        (if leave then 1 ≤ t.pos.toNat else s.pos.toNat + 1 ≤ t.pos.toNat) := by
  obtain ⟨hcap, -⟩ := LoadHeld.cap_le h
  have hfull : blockFull s s.pos.toNat = true ↔ cap < s.pos.toNat + 26 := by
    rw [blockFull, decide_eq_true_eq, h.rest.capOf_eq]
    rfl
  refine .get (.ite (fun hf => .pure ⟨h, hpos, ?_⟩) fun hf => .bind (.firstOfRun h) ?_)
  · rw [hfull] at hf
    rw [if_pos rfl]
    omega
  rw [hfull] at hf
  rintro (_ | c) t ⟨ht, htpos⟩
  · refine .bind (.emitSentinelOp ht (by rw [htpos]; omega)) fun _ u ⟨hu, hu1⟩ => .pure ⟨hu, ?_⟩
    rw [htpos] at hu1
    rw [if_pos rfl]
    omega
  · refine .bind (.extendRun c _ _ ht) fun run u ⟨hrun, hu, hu1⟩ => ?_
    rw [htpos] at hu1
    refine .bind (.emitRunOp c hrun hu (by rw [hu1]; omega)) fun _ v ⟨hv, hv1, hv5⟩ => .get ?_
    rw [hu1] at hv1 hv5
    refine .ite (fun _ => ?_) fun _ => .pure ⟨hv, by omega, by rw [if_neg nofun]; exact hv1⟩
    refine .bind (.emitSentinelOp hv (by omega)) fun _ w ⟨hw, hw1⟩ => .pure ⟨hw, by omega, ?_⟩
    rw [if_pos rfl]
    omega

/-- A block takes at most CAP bytes, so the passes of R262 suffice. -/
theorem Safe.loadLoop : ∀ (fuel : Nat) {s : State}, CoderReady (LoadHeld cap) s →
    s.pos.toNat ≤ cap → cap < fuel + s.pos.toNat →
    Safe (ModelsReady Bounded) s (loadLoop fuel) fun _ t =>
      CoderReady (LoadHeld cap) t ∧ 1 ≤ t.pos.toNat ∧ t.pos.toNat ≤ cap
  | 0, _, _, hpos, hfuel => by omega
  | fuel + 1, s, h, hpos, hfuel => by
    refine .bind (.loadPass h hpos) fun leave t ⟨ht, hle, hleave⟩ =>
      .ite (fun hl => ?_) fun hl => ?_
    · rw [if_pos hl] at hleave
      exact .pure ⟨ht, hleave, hle⟩
    · rw [if_neg hl] at hleave
      exact Safe.loadLoop fuel ht hle (by omega)

/-- LOAD_RLE ends with a block, or waits (R262). -/
theorem Safe.loadOp (h : CoderReady LevelHeld s) :
    Safe (ModelsReady Bounded) s loadOp fun _ t => CoderReady (BlockHeld t.n) t := by
  have hstart : CoderReady (LoadHeld (capOf s)) { s with pos := 0#32, finalBlock := false } :=
    ⟨⟨h.models, h.rest, rfl⟩, h.range⟩
  refine .modify_bind (.get (.bind (.loadLoop _ hstart (Nat.zero_le _) (Nat.lt_succ_self _)) ?_))
  rintro _ t ⟨ht, hpos1, hpos⟩
  obtain ⟨⟨hlevel, -, hq⟩, hcap⟩ := ht.rest
  exact .modify ⟨⟨ht.models, ⟨hlevel, hpos1, hpos.trans hcap.ge⟩, hq, rfl⟩, ht.range⟩

/-! ## Unloading a block (R267) -/

theorem Safe.unloadLoop {m : Nat} (hm : m ≤ n.toNat) : ∀ (fuel i cnt : Nat) (prev : Byte)
    {s : State}, CoderReady (BlockHeld n) s →
    Safe (ModelsReady Bounded) s (unloadLoop m fuel i cnt prev) fun _ => CoderReady (BlockHeld n)
  | 0, _, _, _, _, h => .pure h
  | fuel + 1, i, cnt, prev, s, h => by
    rw [Machine.unloadLoop]
    refine .ite (fun _ => .pure h) fun hi => .ok_bind (readBlock_of_lt ?_) ?_
    · exact BlockHeld.lt_blockSize h (by omega)
    refine .ok_bind (pushByte_apply _ s) (.ite (fun _ => .check (fun _ => ?_) fun hk => ?_) fun _ =>
      Safe.unloadLoop hm fuel _ _ _ h)
    · exact BlockHeld.faultReady h
    · refine .ok_bind (readBlock_of_lt ?_) (.ok_bind (pushByte_repeat ..) ?_)
      · exact BlockHeld.lt_blockSize (s := s) h (by omega)
      · exact Safe.unloadLoop hm fuel _ _ _ h

/-- UNRLE ends, or raises a fault, with the block as it was (R267, R270). -/
theorem Safe.unloadOp (h : CoderReady (BlockHeld n) s) :
    Safe (ModelsReady Bounded) s unloadOp fun _ => CoderReady (BlockHeld n) := by
  obtain ⟨⟨-, hpos, -⟩, -, rfl⟩ := h.rest
  unfold Machine.unloadOp
  refine .get (.ite (fun _ => ?_) fun _ => .unloadLoop le_rfl _ _ _ _ h)
  refine .ok_bind (checkIndex_of_lt hpos s) (.ok_bind (readBlock_of_lt ?_) ?_)
  · exact BlockHeld.lt_blockSize h (by omega)
  · exact .check (fun _ => BlockHeld.faultReady h) fun _ =>
      .unloadLoop (Nat.sub_le ..) _ _ _ _ h

/-! ## The inverse transform (R240) -/

theorem Safe.inverseCount {i : Nat} (hi : i < n.toNat) (h : CoderReady (BlockHeld n) s) :
    Safe (ModelsReady Bounded) s (inverseCount i) fun _ => CoderReady (BlockHeld n) := by
  have hlt := hi.trans_le (BlockHeld.n_le h)
  exact .ok_bind (readLl_of_lt hlt) (.ok_bind (readCc_apply ..)
    (.ok_bind (writeNext_of_lt hlt) (.of_ok (writeCc_apply ..) h)))

theorem Safe.inversePrefix : ∀ (fuel v : Nat) (sum : Word) {s : State}, CoderReady (BlockHeld n) s →
    Safe (ModelsReady Bounded) s (inversePrefix v fuel sum) fun _ => CoderReady (BlockHeld n)
  | 0, _, _, _, h => .pure h
  | fuel + 1, v, _, _, h =>
    .ok_bind (readCc_apply ..) (.ok_bind (writeCc_apply ..) (Safe.inversePrefix fuel (v + 1) _ h))

/-- The walk leaves the block only by a fault (R241). -/
theorem Safe.inverseWalk : ∀ (j : Nat) (i : Word) {s : State}, j ≤ n.toNat →
    CoderReady (BlockHeld n) s →
    Safe (ModelsReady Bounded) s (inverseWalk j i) fun _ => CoderReady (BlockHeld n)
  | 0, _, _, _, h => .pure h
  | j + 1, i, s, hj, h => by
    have hn : s.n = n := h.rest.n_eq
    rw [Machine.inverseWalk]
    refine .get (.check (fun _ => BlockHeld.faultReady h) fun hi => ?_)
    rw [hn, BitVec.not_le, BitVec.lt_def] at hi
    have hlt := hi.trans_le (BlockHeld.n_le h)
    refine .ok_bind (readLl_of_lt hlt) (.ok_bind (writeBlock_of_lt ?_) ?_)
    · exact BlockHeld.lt_blockSize h hj
    · exact .ok_bind (readNext_of_lt hlt) (.ok_bind (readCc_apply ..)
        (Safe.inverseWalk j _ (by omega) h))

/-- INVERT_SORT ends, or raises a fault, with a block of the same length (R240). -/
theorem Safe.inverseOp (h : CoderReady (BlockHeld n) s) :
    Safe (ModelsReady Bounded) s inverseOp fun _ => CoderReady (BlockHeld n) := by
  obtain ⟨-, -, hn⟩ := h.rest
  refine .get (.bind (.loopUp (fun _ => CoderReady (BlockHeld n)) _ _ h fun v t _ _ ht =>
    .of_ok (writeCc_apply ..) ht) fun _ t ht => ?_)
  refine .bind (.loopUp (fun _ => CoderReady (BlockHeld n)) _ _ ht fun i u _ hi hu =>
    .inverseCount (by simpa [hn] using hi) hu) fun _ u hu => ?_
  exact .bind (.inversePrefix _ _ _ hu) fun _ v hv => .inverseWalk _ _ (by rw [hn]) hv

end Block
end Sys2Proof.Machine
end

/-! PROOFS. Sorting within a range never stops the model: the comparators read within the block, every scan of
`partition` has an element that ends it, and every range on QSTACK is replaced by less work. -/
section
namespace Sys2Proof.Machine

section Sorter

variable {R : State → Prop} {s : State} {n : Word}

/-! ## Small blocks (R225) and the search of R237 -/

theorem Safe.trivialGtOp (a b : Word) (h : CoderReady (BlockHeld n) s) :
    Safe R s (trivialGtOp a b) fun _ => CoderReady (BlockHeld n) := by
  have hn := BlockHeld.n_le h
  obtain ⟨-, -, rfl⟩ := h.rest
  exact .get (.ok_bind (checkIndex_of_lt (Nat.lt_succ_of_le (hn.trans (Nat.le_add_right ..))) s)
    (.pure h))

/-- A value sinks to a place not above its own (R225). -/
theorem Safe.shellSink {h : Nat} (hpos : 1 ≤ h) (v : Word) : ∀ (fuel j : Nat) {s : State},
    CoderReady (BlockHeld n) s → j < fuel → j < n.toNat →
    Safe R s (shellSink h v fuel j) fun r t => CoderReady (BlockHeld n) t ∧ r ≤ j
  | 0, _, _, _, hfuel, _ => absurd hfuel (Nat.not_lt_zero _)
  | fuel + 1, j, s, hs, hfuel, hj => by
    have hn := BlockHeld.n_le hs
    refine .ite (fun hle => ?_) fun _ => .pure ⟨hs, le_rfl⟩
    refine .ok_bind (readZptr_of_lt (by omega)) (.bind (.trivialGtOp _ _ hs) fun gt t ht => ?_)
    have hnt := BlockHeld.n_le ht
    refine .ite (fun _ => .ok_bind (writeZptr_of_lt (by omega)) ?_) fun _ => .pure ⟨ht, le_rfl⟩
    exact .mono (Safe.shellSink hpos v fuel (j - h) ht (by omega) (by omega))
      fun _ _ ⟨hu, hr⟩ => ⟨hu, by omega⟩

theorem Safe.shellStep {h i : Nat} (hpos : 1 ≤ h) (hs : CoderReady (BlockHeld n) s)
    (hi : i < n.toNat) :
    Safe R s (shellStep h i) fun _ => CoderReady (BlockHeld n) := by
  have hn := BlockHeld.n_le hs
  refine .ok_bind (readZptr_of_lt (by omega)) ?_
  refine .bind (.shellSink hpos _ _ _ hs (Nat.lt_succ_self i) hi) fun r t ⟨ht, hr⟩ => ?_
  have hnt := BlockHeld.n_le ht
  exact .of_ok (writeZptr_of_lt (by omega)) ht

theorem Safe.shellPasses : ∀ (increments : List Nat) {s : State}, (∀ h ∈ increments, 1 ≤ h) →
    CoderReady (BlockHeld n) s →
    Safe R s (shellPasses n.toNat increments) fun _ => CoderReady (BlockHeld n)
  | [], _, _, hs => .pure hs
  | h :: rest, s, hpos, hs => by
    obtain ⟨h1, hrest⟩ := List.forall_mem_cons.1 hpos
    rw [Machine.shellPasses]
    refine .ite (fun hlt => .bind (.loopUp (fun _ => CoderReady (BlockHeld n)) _ _ hs
      fun i t _ hi ht => .shellStep h1 ht (by omega)) fun _ t ht => ?_) fun _ => ?_
    · exact Safe.shellPasses rest hrest ht
    · exact Safe.shellPasses rest hrest hs

theorem Safe.smallSortOp (h : CoderReady (BlockHeld n) s) :
    Safe R s smallSortOp fun _ => CoderReady (BlockHeld n) := by
  have hn : s.n = n := h.rest.n_eq
  refine .get (.bind (.loopUp (fun _ => CoderReady (BlockHeld n)) _ _ h fun i t _ hi ht => ?_)
    fun _ t ht => ?_)
  · have hnt := BlockHeld.n_le ht
    rw [hn] at hi
    exact .of_ok (writeZptr_of_lt (by omega)) ht
  · rw [hn]
    exact .shellPasses _ (by decide) ht

theorem Safe.findOrigptrFrom : ∀ (fuel k : Nat) {s : State}, CoderReady (BlockHeld n) s →
    k + fuel ≤ n.toNat →
    Safe (ModelsReady Bounded) s (findOrigptrFrom k fuel) fun _ => CoderReady (BlockHeld n)
  | 0, _, _, h, _ => .raise (BlockHeld.faultReady h)
  | fuel + 1, k, s, h, hk => by
    have hn := BlockHeld.n_le h
    exact .ok_bind (readZptr_of_lt (by omega)) (.ite (fun _ => .modify h) fun _ =>
      Safe.findOrigptrFrom fuel (k + 1) h (by omega))

theorem Safe.findOrigptrOp (h : CoderReady (BlockHeld n) s) :
    Safe (ModelsReady Bounded) s findOrigptrOp fun _ => CoderReady (BlockHeld n) := by
  have hn : s.n = n := h.rest.n_eq
  exact .get (.findOrigptrFrom _ 0 h (by rw [hn, Nat.zero_add]))

/-! ## Rotations of the block -/

/-- What sorting a range rests on: start positions below N in every place below N.  FTAB and QSTACK are named,
so that they are known where they are used. -/
def SortHeld (n : Word) (ftab : Arr 32) (stack : List (Word × Word)) (s : State) : Prop :=
  blockFits s ∧ s.n = n ∧ s.ftab = ftab ∧ s.qstack = stack ∧ arrWf s.zptr = true ∧
    startsBelow s 0 s.n.toNat

variable {ftab : Arr 32} {stack : List (Word × Word)}

theorem SortHeld.zptr_wf (h : SortHeld n ftab stack s) : arrWf s.zptr = true := h.2.2.2.2.1

theorem SortHeld.qstack_eq (h : SortHeld n ftab stack s) : s.qstack = stack := h.2.2.2.1

theorem SortHeld.n_le (h : CoderReady (SortHeld n ftab stack) s) : n.toNat ≤ capMax s.par := by
  obtain ⟨⟨hlevel, -, hn⟩, rfl, -⟩ := h.rest
  exact hn.trans (capOf_le_capMax hlevel)

theorem SortHeld.zptr_lt (h : CoderReady (SortHeld n ftab stack) s) {k : Nat} (hk : k < n.toNat) :
    (arrGet s.zptr k).toNat < n.toNat := by
  obtain ⟨-, rfl, -, -, -, hstart⟩ := h.rest
  exact hstart k (Nat.zero_le _) hk

theorem SortHeld.readZptr (h : CoderReady (SortHeld n ftab stack) s) {k : Nat} (hk : k < n.toNat) :
    readZptr k s = .ok (arrGet s.zptr k) s :=
  readZptr_of_lt (hk.trans_le (SortHeld.n_le h))

theorem SortHeld.writeZptr (h : CoderReady (SortHeld n ftab stack) s) {k : Nat} (hk : k < n.toNat)
    (v : Word) : writeZptr k v s = .ok () { s with zptr := arrSet s.zptr k v } :=
  writeZptr_of_lt (hk.trans_le (SortHeld.n_le h))

/-- Writing a start position below N keeps them all below N. -/
theorem SortHeld.set_zptr (h : CoderReady (SortHeld n ftab stack) s) {v : Word}
    (hv : v.toNat < n.toNat) (k : Nat) :
    CoderReady (SortHeld n ftab stack) { s with zptr := arrSet s.zptr k v } := by
  obtain ⟨hfits, hn, hftab, hstack, hwf, hstart⟩ := h.rest
  refine ⟨⟨h.models, hfits, hn, hftab, hstack, arrWf_arrSet hwf k v, fun i h0 hi => ?_⟩, h.range⟩
  by_cases hik : i = k
  · subst hik
    rw [zptrAt, arrGet_arrSet_same _ _ _ hwf, hn]
    exact hv
  · rw [zptrAt, arrGet_arrSet_other _ _ _ _ hik hwf]
    exact hstart i h0 hi

/-- `full_gt(a, b)` of the block of `s`. -/
def rotGt (s : State) (a b : Word) : Bool := fullGt s.block s.n.toNat a.toNat b.toNat

theorem rotGt_self (s : State) (a : Word) : rotGt s a a = false := if_pos rfl

theorem SortHeld.fullGtOp (h : CoderReady (SortHeld n ftab stack) s) {a b : Word}
    (ha : a.toNat < n.toNat) (hb : b.toNat < n.toNat) : fullGtOp a b s = .ok (rotGt s a b) s := by
  have hn := SortHeld.n_le h
  obtain ⟨-, rfl, -⟩ := h.rest
  simp only [Machine.fullGtOp, seq_bind, seq_get, checkIndex_of_lt (Nat.lt_succ_of_le hn),
    checkIndex_of_lt ha, checkIndex_of_lt hb, seq_pure, rotGt]

/-! ## Insertion (R234) -/

theorem Safe.insertSink (lo : Nat) {v : Word} (hv : v.toNat < n.toNat) : ∀ (j : Nat) {s : State},
    CoderReady (SortHeld n ftab stack) s → j < n.toNat →
    Safe R s (insertSink lo v j) fun r t => CoderReady (SortHeld n ftab stack) t ∧ r ≤ j
  | 0, _, h, _ => .pure ⟨h, le_rfl⟩
  | j + 1, s, h, hj => by
    have hz := SortHeld.zptr_lt h (k := j) (by omega)
    refine .ite (fun _ => .ok_bind (SortHeld.readZptr h (by omega)) ?_) fun _ => .pure ⟨h, le_rfl⟩
    refine .ok_bind (SortHeld.fullGtOp h hz hv) (.ite (fun _ => ?_) fun _ => .pure ⟨h, le_rfl⟩)
    refine .ok_bind (SortHeld.writeZptr h hj _) ?_
    exact .mono (Safe.insertSink lo hv j (SortHeld.set_zptr h hz _) (by omega))
      fun _ _ ⟨ht, hr⟩ => ⟨ht, by omega⟩

theorem Safe.insertStep (lo : Nat) {i : Nat} (h : CoderReady (SortHeld n ftab stack) s)
    (hi : i < n.toNat) :
    Safe R s (insertStep lo i) fun _ => CoderReady (SortHeld n ftab stack) := by
  have hz := SortHeld.zptr_lt h hi
  refine .ok_bind (SortHeld.readZptr h hi) (.bind (.insertSink lo hz i h hi) fun r t ⟨ht, hr⟩ => ?_)
  exact .of_ok (SortHeld.writeZptr ht (by omega) _) (SortHeld.set_zptr ht hz _)

theorem Safe.insertionOp {lo hi : Word} (h : CoderReady (SortHeld n ftab stack) s)
    (hhi : hi.toNat < n.toNat) :
    Safe R s (insertionOp lo hi) fun _ => CoderReady (SortHeld n ftab stack) :=
  .loopUp (fun _ => CoderReady (SortHeld n ftab stack)) _ _ h fun i t _ _ ht =>
    .insertStep _ ht (by omega)

/-! ## Partition (R232, R233) -/

/-- The pivot is one of the three elements (R232). -/
theorem Safe.median3Op {a b c : Word} (h : CoderReady (SortHeld n ftab stack) s)
    (ha : a.toNat < n.toNat) (hb : b.toNat < n.toNat) (hc : c.toNat < n.toNat) :
    Safe R s (median3Op a b c) fun w t => t = s ∧ (w = a ∨ w = b ∨ w = c) := by
  refine .ok_bind (SortHeld.fullGtOp h ha hb) ?_
  cases rotGt s a b
  · refine .ok_bind (SortHeld.fullGtOp h hb hc) (.ite (fun _ => ?_) fun _ => .pure (by simp))
    exact .ok_bind (SortHeld.fullGtOp h ha hc) (.pure (by split <;> simp))
  · refine .ok_bind (SortHeld.fullGtOp h ha hc) (.ite (fun _ => ?_) fun _ => .pure (by simp))
    exact .ok_bind (SortHeld.fullGtOp h hb hc) (.pure (by split <;> simp))

/-- The scan upwards stops at an element that is not below the pivot, at `q` at the latest. -/
theorem Safe.scanUp {p : Word} (hp : p.toNat < n.toNat) (h : CoderReady (SortHeld n ftab stack) s)
    {q : Nat} (hq : q < n.toNat) (hstop : rotGt s p (arrGet s.zptr q) = false) :
    ∀ fuel i : Nat, i ≤ q → q < i + fuel →
    Safe R s (scanUp p fuel i) fun r t =>
      t = s ∧ i ≤ r ∧ r ≤ q ∧ rotGt s p (arrGet s.zptr r) = false
  | 0, _, hi, hfuel => by omega
  | fuel + 1, i, hi, hfuel => by
    refine .ok_bind (SortHeld.readZptr h (by omega)) ?_
    refine .ok_bind (SortHeld.fullGtOp h hp (SortHeld.zptr_lt h (by omega))) ?_
    refine .ite (fun hgt => ?_) fun hgt => .pure ⟨rfl, le_rfl, hi, by simpa using hgt⟩
    have hne : i ≠ q := fun hiq => by
      rw [hiq, hstop] at hgt
      cases hgt
    exact .mono (Safe.scanUp hp h hq hstop fuel (i + 1) (by omega) (by omega))
      fun _ _ ⟨ht, hr, hrq, hr0⟩ => ⟨ht, by omega, hrq, hr0⟩

/-- The scan downwards stops at an element that is not above the pivot, at `q` at the latest. -/
theorem Safe.scanDown {p : Word} (hp : p.toNat < n.toNat)
    (h : CoderReady (SortHeld n ftab stack) s) {q : Nat}
    (hstop : rotGt s (arrGet s.zptr q) p = false) :
    ∀ j : Nat, q ≤ j → j < n.toNat →
    Safe R s (scanDown p j) fun r t =>
      t = s ∧ q ≤ r ∧ r ≤ j ∧ rotGt s (arrGet s.zptr r) p = false
  | 0, hqj, hj => by
    obtain rfl : q = 0 := by omega
    refine .ok_bind (SortHeld.readZptr h hj) ?_
    refine .ok_bind (SortHeld.fullGtOp h (SortHeld.zptr_lt h hj) hp) ?_
    rw [hstop]
    exact .pure ⟨rfl, le_rfl, le_rfl, hstop⟩
  | j + 1, hqj, hj => by
    refine .ok_bind (SortHeld.readZptr h hj) ?_
    refine .ok_bind (SortHeld.fullGtOp h (SortHeld.zptr_lt h hj) hp) ?_
    refine .ite (fun hgt => ?_) fun hgt => .pure ⟨rfl, hqj, le_rfl, by simpa using hgt⟩
    have hne : q ≠ j + 1 := fun hqj => by
      rw [← hqj, hstop] at hgt
      cases hgt
    exact .mono (Safe.scanDown hp h hstop j (by omega) (by omega))
      fun _ _ ⟨ht, hr, hrj, hr0⟩ => ⟨ht, hr, by omega, hr0⟩

/-- The state after `exchange ZPTR[i] and ZPTR[j]`. -/
def exchanged (s : State) (i j : Nat) : State :=
  { s with zptr := arrSet (arrSet s.zptr i (arrGet s.zptr j)) j (arrGet s.zptr i) }

theorem SortHeld.exchangeZptr (h : CoderReady (SortHeld n ftab stack) s) {i j : Nat}
    (hi : i < n.toNat) (hj : j < n.toNat) :
    exchangeZptr i j s = .ok () (exchanged s i j) ∧
      CoderReady (SortHeld n ftab stack) (exchanged s i j) := by
  have h1 := SortHeld.set_zptr h (SortHeld.zptr_lt h hj) i
  refine ⟨?_, SortHeld.set_zptr h1 (SortHeld.zptr_lt h hi) j⟩
  simp only [Machine.exchangeZptr, seq_bind, SortHeld.readZptr h hi, SortHeld.readZptr h hj,
    SortHeld.writeZptr h hi, SortHeld.writeZptr h1 hj, exchanged]

theorem arrGet_exchanged_right (hwf : arrWf s.zptr = true) (i j : Nat) :
    arrGet (exchanged s i j).zptr j = arrGet s.zptr i :=
  arrGet_arrSet_same _ _ _ (arrWf_arrSet hwf _ _)

theorem arrGet_exchanged_left (hwf : arrWf s.zptr = true) (i j : Nat) :
    arrGet (exchanged s i j).zptr i = arrGet s.zptr j := by
  by_cases hij : i = j
  · subst hij
    exact arrGet_exchanged_right hwf i i
  · rw [exchanged, arrGet_arrSet_other _ _ _ _ hij (arrWf_arrSet hwf _ _),
      arrGet_arrSet_same _ _ _ hwf]

/-- The loop of R233 from places with an element ahead of each scan that ends it: after an exchange the two
elements exchanged do so.  The first pass moves both places when one element ends both scans. -/
theorem Safe.partitionLoop {p : Word} (hp : p.toNat < n.toNat) {lo hi : Nat} (hhi : hi < n.toNat) :
    ∀ (fuel i j qi qj : Nat) {s : State}, CoderReady (SortHeld n ftab stack) s →
    lo ≤ i → i ≤ qi → qi ≤ hi → rotGt s p (arrGet s.zptr qi) = false →
    lo ≤ qj → qj ≤ j → j ≤ hi → rotGt s (arrGet s.zptr qj) p = false → j < fuel →
    Safe R s (partitionLoop p fuel i j) fun ij t =>
      CoderReady (SortHeld n ftab stack) t ∧ i ≤ ij.1 ∧ (lo : Int) - 1 ≤ ij.2 ∧
        ij.2 ≤ j ∧ ij.2 < ij.1 ∧ (qi ≤ qj → i < ij.1 ∧ ij.2 < j)
  | 0, _, _, _, _, _, _, _, _, _, _, _, _, _, _, hfuel => absurd hfuel (Nat.not_lt_zero _)
  | fuel + 1, i, j, qi, qj, s, h, hlo, hi1, hi2, hup, hj1, hj2, hj3, hdown, hfuel => by
    have hn := SortHeld.n_le h
    refine .get (.bind (.scanUp hp h (by omega) hup _ i hi1 (by omega)) ?_)
    rintro i' _ ⟨rfl, hii, hiq, hi0⟩
    refine .bind (.scanDown hp h hdown j hj2 (by omega)) ?_
    rintro j' s ⟨rfl, hqj, hjj, hj0⟩
    refine .ite (fun hle => ?_) fun hgt => .pure ⟨h, ?_, ?_, ?_, ?_, ?_⟩
    · obtain ⟨hex, hs⟩ := SortHeld.exchangeZptr h (i := i') (j := j') (by omega) (by omega)
      have hwf : arrWf s.zptr = true := h.rest.zptr_wf
      refine .ok_bind hex (.ite (fun hlt => ?_) fun hge => .pure ⟨hs, ?_, ?_, ?_, ?_, ?_⟩)
      · have hup' : rotGt (exchanged s i' j') p (arrGet (exchanged s i' j').zptr j') = false := by
          rw [arrGet_exchanged_right hwf]
          exact hi0
        have hdown' : rotGt (exchanged s i' j') (arrGet (exchanged s i' j').zptr i') p = false := by
          rw [arrGet_exchanged_left hwf]
          exact hj0
        refine .mono (Safe.partitionLoop (lo := lo) hp hhi fuel (i' + 1) (j' - 1) j' i' hs
          (by omega) (by omega) (by omega) hup' (by omega) (by omega) (by omega) hdown' (by omega)) ?_
        rintro ⟨a, b⟩ t ⟨ht, h1, h2, h3, h4, -⟩
        dsimp only at h1 h2 h3 h4 ⊢
        exact ⟨ht, by omega, h2, by omega, h4, by omega⟩
      all_goals dsimp only; omega
    all_goals dsimp only; omega

/-- `partition` splits a range into two smaller ones (R233): one element ends both first scans. -/
theorem Safe.partitionOp {lo hi p : Word} (h : CoderReady (SortHeld n ftab stack) s)
    (hhi : hi.toNat < n.toNat) {q : Nat} (hlo : lo.toNat ≤ q) (hq : q ≤ hi.toNat)
    (hp : arrGet s.zptr q = p) :
    Safe R s (partitionOp lo hi p) fun ij t =>
      CoderReady (SortHeld n ftab stack) t ∧ lo.toNat < ij.1 ∧ (lo.toNat : Int) - 1 ≤ ij.2 ∧
        ij.2 < hi.toNat ∧ ij.2 < ij.1 := by
  subst hp
  have hpn := SortHeld.zptr_lt h (k := q) (by omega)
  have hself := rotGt_self s (arrGet s.zptr q)
  refine .mono (.partitionLoop hpn hhi _ _ _ q q h le_rfl hlo hq hself hlo hq le_rfl hself
    (Nat.lt_succ_self _)) ?_
  rintro ⟨i, j⟩ t ⟨ht, -, hj, -, hij, hmove⟩
  obtain ⟨hi', hj'⟩ := hmove le_rfl
  exact ⟨ht, hi', hj, hj', hij⟩

/-! ## The stack of ranges (R231) -/

/-- Every range on the stack has two elements at least and lies within the block. -/
def RangesOk (n : Word) (stack : List (Word × Word)) : Prop :=
  ∀ range ∈ stack, range.1.toNat < range.2.toNat ∧ range.2.toNat < n.toNat

/-- How many tests of the stack loop the ranges lead to: fewer than `2 k` for `k` elements. -/
def stackWork : List (Word × Word) → Nat
  | [] => 0
  | (lo, hi) :: rest => 2 * (hi.toNat - lo.toNat) + 1 + stackWork rest

theorem stackWork_lt_qsortTests : ∀ stack, stackWork stack < qsortTests stack
  | [] => Nat.zero_lt_one
  | (lo, hi) :: rest => by
    have := stackWork_lt_qsortTests rest
    simp only [stackWork, qsortTests]
    omega

/-- The work a range adds when it is pushed: none if it has fewer than two elements. -/
def pushWork (first second : Int) : Int := if first < second then 2 * (second - first) + 1 else 0

/-- A range with legal ends, or with too few elements to be pushed, goes on the stack. -/
theorem Safe.pushRange {first second : Int} (h : CoderReady (SortHeld n ftab stack) s)
    (hstack : RangesOk n stack) (h0 : 0 ≤ first) (hn : second < n.toNat) :
    Safe R s (pushRange first second) fun _ t => ∃ stack',
      CoderReady (SortHeld n ftab stack') t ∧ RangesOk n stack' ∧
        (stackWork stack' : Int) = stackWork stack + pushWork first second := by
  have hq : s.qstack = stack := h.rest.qstack_eq
  have hnlt : n.toNat < 2 ^ 32 := n.isLt
  unfold pushWork
  refine .ite (fun hlt => .modify ?_) fun hlt => .pure ⟨stack, h, hstack, by simp [hlt]⟩
  have hfirst : (BitVec.ofInt 32 first).toNat = first.toNat := by
    rw [BitVec.toNat_ofInt]
    omega
  have hsecond : (BitVec.ofInt 32 second).toNat = second.toNat := by
    rw [BitVec.toNat_ofInt]
    omega
  refine ⟨(BitVec.ofInt 32 first, BitVec.ofInt 32 second) :: stack, ?_, ?_, ?_⟩
  · obtain ⟨hfits, hsn, hftab, -, hrest⟩ := h.rest
    exact ⟨⟨h.models, hfits, hsn, hftab, congrArg _ hq, hrest⟩, h.range⟩
  · refine List.forall_mem_cons.2 ⟨?_, hstack⟩
    rw [hfirst, hsecond]
    omega
  · rw [stackWork, hfirst, hsecond, if_pos hlt]
    omega

/-- Two ranges pushed one after the other. -/
theorem Safe.pushRanges {a b c d : Int} (h : CoderReady (SortHeld n ftab stack) s)
    (hstack : RangesOk n stack) (ha : 0 ≤ a) (hb : b < n.toNat) (hc : 0 ≤ c) (hd : d < n.toNat) :
    Safe R s (do Machine.pushRange a b; Machine.pushRange c d) fun _ t => ∃ stack',
      CoderReady (SortHeld n ftab stack') t ∧ RangesOk n stack' ∧
        (stackWork stack' : Int) = stackWork stack + pushWork a b + pushWork c d :=
  .bind (.pushRange h hstack ha hb) fun _ _ ⟨_, ht, hok, hwork⟩ =>
    .mono (.pushRange ht hok hc hd) fun _ _ ⟨stack', hu, hok', hwork'⟩ =>
      ⟨stack', hu, hok', by rw [hwork', hwork]⟩

/-- A range taken off the stack is sorted, or replaced by two that are less work together (R231). -/
theorem Safe.qsortRange {lo hi : Word} (h : CoderReady (SortHeld n ftab stack) s)
    (hstack : RangesOk n stack) (hlt : lo.toNat < hi.toNat) (hhi : hi.toNat < n.toNat) :
    Safe R s (qsortRange lo hi) fun _ t => ∃ stack',
      CoderReady (SortHeld n ftab stack') t ∧ RangesOk n stack' ∧
        stackWork stack' < stackWork ((lo, hi) :: stack) := by
  have hwork : stackWork ((lo, hi) :: stack) =
      2 * (hi.toNat - lo.toNat) + 1 + stackWork stack := rfl
  refine .ite (fun _ => .mono (.insertionOp h hhi) fun _ t ht => ⟨stack, ht, hstack, by omega⟩)
    fun _ => ?_
  have hmid : (lo.toNat + hi.toNat) / 2 < n.toNat := by omega
  have hz : ∀ k, k < n.toNat → (arrGet s.zptr k).toNat < n.toNat := fun k => SortHeld.zptr_lt h
  refine .ok_bind (SortHeld.readZptr h (by omega)) (.ok_bind (SortHeld.readZptr h hmid)
    (.ok_bind (SortHeld.readZptr h hhi) ?_))
  refine .bind (.median3Op h (hz _ (by omega)) (hz _ hmid) (hz _ hhi)) ?_
  rintro p s ⟨rfl, hp⟩
  have hpivot : ∃ q, lo.toNat ≤ q ∧ q ≤ hi.toNat ∧ arrGet s.zptr q = p := by
    rcases hp with rfl | rfl | rfl
    · exact ⟨_, le_rfl, hlt.le, rfl⟩
    · exact ⟨_, by omega, by omega, rfl⟩
    · exact ⟨_, hlt.le, le_rfl, rfl⟩
  obtain ⟨q, hq1, hq2, hqp⟩ := hpivot
  refine .bind (.partitionOp h hhi hq1 hq2 hqp) ?_
  rintro ⟨i, j⟩ t ⟨ht, hi', hj, hj', hij⟩
  dsimp only at hi' hj hj' hij
  have hless : pushWork i hi.toNat + pushWork lo.toNat j ≤ 2 * ((hi.toNat : Int) - lo.toNat) := by
    unfold pushWork
    split <;> split <;> omega
  refine .ite (fun _ => ?_) fun _ => ?_
  · refine .mono (.pushRanges ht hstack (by omega) (by omega) (by omega) (by omega)) ?_
    rintro _ u ⟨stack', hu, hok, hsum⟩
    exact ⟨stack', hu, hok, by omega⟩
  · refine .mono (.pushRanges ht hstack (by omega) (by omega) (by omega) (by omega)) ?_
    rintro _ u ⟨stack', hu, hok, hsum⟩
    exact ⟨stack', hu, hok, by omega⟩

/-- Every range taken off leaves less work, so the stack is empty within the tests (R231). -/
theorem Safe.qsortLoop : ∀ (fuel : Nat) {s : State} {stack : List (Word × Word)},
    CoderReady (SortHeld n ftab stack) s → RangesOk n stack → stackWork stack < fuel →
    Safe R s (qsortLoop fuel) fun _ => CoderReady (SortHeld n ftab [])
  | 0, _, _, _, _, hfuel => absurd hfuel (Nat.not_lt_zero _)
  | fuel + 1, s, stack, h, hstack, hfuel => by
    obtain ⟨hfits, hn, hftab, rfl, hrest⟩ := h.rest
    refine .get ?_
    split
    next hq => exact .pure (hq ▸ h)
    next lo hi rest hq =>
      rw [hq] at hstack hfuel
      obtain ⟨⟨hlt, hhi⟩, hok⟩ := List.forall_mem_cons.1 hstack
      have hpop : CoderReady (SortHeld n ftab rest) { s with qstack := rest } :=
        ⟨⟨h.models, hfits, hn, hftab, rfl, hrest⟩, h.range⟩
      refine .set_bind (.bind (.qsortRange hpop hok hlt hhi) ?_)
      rintro _ t ⟨stack', ht, hok', hwork⟩
      exact Safe.qsortLoop fuel ht hok' (by omega)

/-- `bwt.qsort` of a range within the block ends with an empty stack (R231). -/
theorem Safe.qsortOp {lo hi : Word} (h : CoderReady (SortHeld n ftab []) s)
    (hlt : lo.toNat < hi.toNat) (hhi : hi.toNat < n.toNat) :
    Safe R s (qsortOp lo hi) fun _ => CoderReady (SortHeld n ftab []) := by
  obtain ⟨hfits, hn, hftab, hq, hrest⟩ := h.rest
  have hpush : CoderReady (SortHeld n ftab ((lo, hi) :: s.qstack))
      { s with qstack := (lo, hi) :: s.qstack } :=
    ⟨⟨h.models, hfits, hn, hftab, rfl, hrest⟩, h.range⟩
  refine .modify_bind (.get (.qsortLoop _ hpush ?_ (stackWork_lt_qsortTests _)))
  rw [hq]
  exact List.forall_mem_cons.2 ⟨⟨hlt, hhi⟩, nofun⟩

end Sorter
end Sys2Proof.Machine
end

/-! PROOFS. The bucket pass never stops the model: FTAB counts the leading pairs, so every place it gives out
lies within the block and every place of the block is given out. -/
section
namespace Sys2Proof.Machine

/-! ## Counting leading pairs (R228) -/

section Counting

variable (pair : Nat → Nat)

/-- How many of the first `i` rotations lead with the pair `j`. -/
def pairCount (j i : Nat) : Nat := Nat.count (fun m => pair m = j) i

/-- How many of the first `n` rotations lead with a pair below `j`: where bucket `j` starts. -/
def pairsBelow (n j : Nat) : Nat := Nat.count (fun m => pair m < j) n

theorem pairCount_succ_self (i : Nat) :
    pairCount pair (pair i) (i + 1) = pairCount pair (pair i) i + 1 := by
  simp [pairCount, Nat.count_succ]

theorem pairCount_succ_of_ne {j i : Nat} (h : pair i ≠ j) :
    pairCount pair j (i + 1) = pairCount pair j i := by
  simp [pairCount, Nat.count_succ, h]

theorem pairsBelow_zero (n : Nat) : pairsBelow pair n 0 = 0 := by simp [pairsBelow, Nat.count_false]

theorem pairsBelow_succ (n j : Nat) :
    pairsBelow pair n (j + 1) = pairsBelow pair n j + pairCount pair j n := by
  unfold pairsBelow pairCount
  induction n with
  | zero => rfl
  | succ n ih =>
    simp only [Nat.count_succ, ih]
    split_ifs <;> omega

theorem pairsBelow_le (n j : Nat) : pairsBelow pair n j ≤ n := Nat.count_le _

theorem pairsBelow_of_forall_lt {n j : Nat} (h : ∀ m, pair m < j) : pairsBelow pair n j = n :=
  Nat.count_of_forall fun m _ => h m

theorem pairCount_eq_zero {n j : Nat} (h : ∀ m, pair m < j) : pairCount pair j n = 0 := by
  have hsucc := pairsBelow_succ pair n j
  rw [pairsBelow_of_forall_lt pair h,
    pairsBelow_of_forall_lt pair fun m => (h m).trans (Nat.lt_succ_self j)] at hsucc
  omega

theorem pairCount_mono {i n : Nat} (h : i ≤ n) (j : Nat) : pairCount pair j i ≤ pairCount pair j n :=
  Nat.count_monotone _ h

/-- Every place below the start of bucket `b` lies in a bucket before it. -/
theorem exists_bucket {n k : Nat} : ∀ {b : Nat}, k < pairsBelow pair n b →
    ∃ j < b, pairsBelow pair n j ≤ k ∧ k < pairsBelow pair n (j + 1)
  | 0, h => by
    rw [pairsBelow_zero] at h
    exact absurd h (Nat.not_lt_zero _)
  | b + 1, h => by
    by_cases hk : k < pairsBelow pair n b
    · obtain ⟨j, hj, hbucket⟩ := exists_bucket hk
      exact ⟨j, by omega, hbucket⟩
    · exact ⟨b, Nat.lt_succ_self b, by omega, h⟩

end Counting

theorem pairAt_lt (block : Memory) (n i : Nat) : pairAt block n i < numBuckets := by
  have h1 := (arrGet (w := 8) block i).isLt
  have h2 := (arrGet (w := 8) block ((i + 1) % n)).isLt
  simp only [pairAt, numBuckets]
  omega

/-! ## The bucket pass -/

section Buckets

variable {R : State → Prop} {s : State} {n : Word}

/-- What the bucket pass rests on beside the block: canonical tables. -/
def TablesHeld (n : Word) (s : State) : Prop :=
  BlockHeld n s ∧ arrWf s.zptr = true ∧ arrWf s.ftab = true

/-- The same, with the block named. -/
def FillHeld (n : Word) (block : Memory) (s : State) : Prop := TablesHeld n s ∧ s.block = block

theorem TablesHeld.block (h : TablesHeld n s) : BlockHeld n s := h.1

theorem TablesHeld.zptr_wf (h : TablesHeld n s) : arrWf s.zptr = true := h.2.1

theorem TablesHeld.ftab_wf (h : TablesHeld n s) : arrWf s.ftab = true := h.2.2

theorem TablesHeld.blockHeld (h : CoderReady (TablesHeld n) s) : CoderReady (BlockHeld n) s :=
  h.mono h.rest.block

/-- The padding lies behind the block (R224). -/
theorem Safe.buildPadOp (h : CoderReady (TablesHeld n) s) :
    Safe R s buildPadOp fun _ => CoderReady (TablesHeld n) := by
  have hn : s.n = n := h.rest.block.n_eq
  refine .get (.loopUp (fun _ => CoderReady (TablesHeld n)) _ _ h fun t u _ ht hu => ?_)
  have hmax := BlockHeld.n_le (TablesHeld.blockHeld hu)
  have hsize : blockSize u = capMax u.par + wrapPad := rfl
  exact .ok_bind (readBlock_of_lt (by omega)) (.of_ok (writeBlock_of_lt (by rw [hn]; omega)) hu)

variable {block : Memory}

theorem FillHeld.tables (h : FillHeld n block s) : TablesHeld n s := h.1

theorem FillHeld.n_le (h : CoderReady (FillHeld n block) s) : n.toNat ≤ capMax s.par :=
  BlockHeld.n_le (h.mono h.rest.tables.block)

theorem FillHeld.pairOp (h : CoderReady (FillHeld n block) s) (i : Nat) :
    pairOp i s = .ok (pairAt block n.toNat i) s := by
  have hn := FillHeld.n_le h
  obtain ⟨⟨⟨-, -, rfl⟩, -⟩, rfl⟩ := h.rest
  simp only [Machine.pairOp, seq_bind, seq_get, checkIndex_of_lt (Nat.lt_succ_of_le hn), seq_pure]

/-- FTAB holds the counts `f`, in the elements below `m`. -/
def FtabHolds (f : Nat → Nat) (m : Nat) (s : State) : Prop :=
  ∀ j < m, arrGet s.ftab j = BitVec.ofNat 32 (f j)

/-- The bucket pass with FTAB at the counts `f`. -/
def FillReady (n : Word) (block : Memory) (f : Nat → Nat) (s : State) : Prop :=
  CoderReady (FillHeld n block) s ∧ FtabHolds f (numBuckets + 1) s

theorem FillReady.held {f : Nat → Nat} (h : FillReady n block f s) :
    CoderReady (FillHeld n block) s := h.1

theorem FillReady.readFtab {f : Nat → Nat} (h : FillReady n block f s) {j : Nat}
    (hj : j < numBuckets + 1) : readFtab j s = .ok (BitVec.ofNat 32 (f j)) s := by
  rw [readFtab_of_lt hj, h.2 j hj]

/-- A write to FTAB leaves the tables canonical. -/
theorem FillHeld.set_ftab (h : CoderReady (FillHeld n block) s) (j : Nat) (v : Word) :
    CoderReady (FillHeld n block) { s with ftab := arrSet s.ftab j v } := by
  obtain ⟨⟨hblock, hzptr, hftab⟩, hb⟩ := h.rest
  exact ⟨⟨h.models, ⟨hblock, hzptr, arrWf_arrSet hftab j v⟩, hb⟩, h.range⟩

theorem FtabHolds.set {f : Nat → Nat} {m j : Nat} (hwf : arrWf s.ftab = true)
    (h : ∀ i < m, i ≠ j → arrGet s.ftab i = BitVec.ofNat 32 (f i)) :
    FtabHolds f m { s with ftab := arrSet s.ftab j (BitVec.ofNat 32 (f j)) } := by
  intro i hi
  by_cases hij : i = j
  · subst hij
    exact arrGet_arrSet_same _ _ _ hwf
  · exact (arrGet_arrSet_other _ _ _ _ hij hwf).trans (h i hi hij)

/-- One element of FTAB written: the counts change in that element alone. -/
theorem FillReady.set_ftab {f g : Nat → Nat} {j : Nat} (h : FillReady n block f s)
    (hg : ∀ i < numBuckets + 1, i ≠ j → g i = f i) :
    FillReady n block g { s with ftab := arrSet s.ftab j (BitVec.ofNat 32 (g j)) } := by
  obtain ⟨hheld, hf⟩ := h
  exact ⟨FillHeld.set_ftab hheld j _,
    .set hheld.rest.tables.ftab_wf fun i hi hij => hg i hi hij ▸ hf i hi⟩

theorem Safe.writeFtab {f : Nat → Nat} (g : Nat → Nat) {j : Nat} {v : Word}
    (h : FillReady n block f s) (hj : j < numBuckets + 1) (hv : v = BitVec.ofNat 32 (g j))
    (hg : ∀ i < numBuckets + 1, i ≠ j → g i = f i) :
    Safe R s (writeFtab j v) fun _ => FillReady n block g := by
  subst hv
  exact .of_ok (writeFtab_of_lt hj) (h.set_ftab hg)

/-- The first loop of R228 clears FTAB. -/
theorem Safe.clearFtab (h : CoderReady (FillHeld n block) s) :
    Safe R s (Machine.loopUp (fun j => Machine.writeFtab j 0#32) 0 (numBuckets + 1)) fun _ =>
      FillReady n block fun _ => 0 := by
  refine .mono (.loopUp (fun j t => CoderReady (FillHeld n block) t ∧ FtabHolds (fun _ => 0) j t)
    (numBuckets + 1) 0 ⟨h, nofun⟩ fun j t _ hj ⟨ht, hf⟩ => ?_) fun _ t ht => ?_
  · exact .of_ok (writeFtab_of_lt (by omega)) ⟨FillHeld.set_ftab ht j _,
      .set (f := fun _ => 0) ht.rest.tables.ftab_wf fun i hi hij => hf i (by omega)⟩
  · rwa [Nat.zero_add] at ht

/-- The second loop counts the leading pairs. -/
theorem Safe.countPairs (h : FillReady n block (fun _ => 0) s) :
    Safe R s (Machine.loopUp (fun i => do
      let j ← Machine.pairOp i
      let c ← Machine.readFtab j
      Machine.writeFtab j (c + 1#32)) 0 n.toNat) fun _ =>
      FillReady n block fun j => pairCount (pairAt block n.toNat) j n.toNat := by
  refine .mono (.loopUp
    (fun i => FillReady n block fun j => pairCount (pairAt block n.toNat) j i) n.toNat 0
    (by simpa [pairCount] using h) fun i t _ _ ht => ?_) fun _ t ht => ?_
  · have hlt : pairAt block n.toNat i < numBuckets + 1 := (pairAt_lt ..).trans (Nat.lt_succ_self _)
    refine .ok_bind (FillHeld.pairOp ht.held i) (.ok_bind (FillReady.readFtab ht hlt) ?_)
    refine .writeFtab (fun j => pairCount (pairAt block n.toNat) j (i + 1)) ht hlt ?_
      fun j _ hj => pairCount_succ_of_ne _ (Ne.symm hj)
    rw [pairCount_succ_self, BitVec.ofNat_add]
  · rwa [Nat.zero_add] at ht

/-- FTAB while the third loop sums the counts: the ends of the buckets below `j`, the counts from there on. -/
def partialEnds (pair : Nat → Nat) (n j k : Nat) : Nat :=
  if k < j then pairsBelow pair n (k + 1) else pairCount pair k n

/-- The third loop makes the counts the ends of the buckets. -/
theorem Safe.sumCounts
    (h : FillReady n block (fun j => pairCount (pairAt block n.toNat) j n.toNat) s) :
    Safe R s (Machine.loopUp (fun j => do
      let c ← Machine.readFtab j
      let b ← Machine.readFtab (j - 1)
      Machine.writeFtab j (c + b)) 1 (numBuckets - 1)) fun _ =>
      FillReady n block (partialEnds (pairAt block n.toNat) n.toNat numBuckets) := by
  have hstart : partialEnds (pairAt block n.toNat) n.toNat 1 =
      fun j => pairCount (pairAt block n.toNat) j n.toNat := by
    funext k
    unfold partialEnds
    split
    next hk =>
      obtain rfl : k = 0 := by omega
      rw [pairsBelow_succ, pairsBelow_zero, Nat.zero_add]
    next => rfl
  refine .loopUp (fun j => FillReady n block (partialEnds (pairAt block n.toNat) n.toNat j))
    (numBuckets - 1) 1 (by rwa [hstart]) fun j t hj1 hj ht => ?_
  have hj' : j < numBuckets + 1 := by omega
  refine .ok_bind (FillReady.readFtab ht hj') (.ok_bind (FillReady.readFtab ht (by omega)) ?_)
  refine .writeFtab _ ht hj' ?_ fun k _ hk => ?_
  · rw [← BitVec.ofNat_add]
    congr 1
    have hpred : j - 1 + 1 = j := by omega
    rw [partialEnds, partialEnds, partialEnds, if_neg (lt_irrefl j), if_pos (by omega),
      if_pos (Nat.lt_succ_self j), hpred, pairsBelow_succ, Nat.add_comm]
  · have hiff : k < j + 1 ↔ k < j := by omega
    rw [partialEnds, partialEnds, if_congr hiff rfl rfl]

/-- FTAB while the fourth loop fills: bucket `j` is filled down to its rotations below `i`. -/
def fillFrom (pair : Nat → Nat) (n i j : Nat) : Nat := pairsBelow pair n j + pairCount pair j i

/-- The place a rotation is given lies within the block. -/
theorem fillFrom_lt (pair : Nat → Nat) {n i : Nat} (hi : i < n) : fillFrom pair n i (pair i) < n := by
  have hle := pairsBelow_le pair n (pair i + 1)
  have hmono := pairCount_mono pair (show i + 1 ≤ n from hi) (pair i)
  rw [pairsBelow_succ] at hle
  rw [pairCount_succ_self] at hmono
  rw [fillFrom]
  omega

/-- Every place of a bucket that is filled holds a start position. -/
def Filled (pair : Nat → Nat) (n i : Nat) (s : State) : Prop :=
  ∀ j < numBuckets, ∀ k, fillFrom pair n i j ≤ k → k < pairsBelow pair n (j + 1) →
    (arrGet s.zptr k).toNat < n

/-- A rotation put into its bucket fills the place below those filled. -/
theorem Filled.set {pair : Nat → Nat} {i : Nat} (hwf : arrWf s.zptr = true)
    (h : Filled pair n.toNat (i + 1) s) (hi : i < n.toNat) :
    Filled pair n.toNat i { s with
      zptr := arrSet s.zptr (fillFrom pair n.toNat i (pair i)) (BitVec.ofNat 32 i) } := by
  intro b hb k hk1 hk2
  have hilt := n.isLt
  by_cases hk : k = fillFrom pair n.toNat i (pair i)
  · subst hk
    rw [arrGet_arrSet_same _ _ _ hwf, BitVec.toNat_ofNat, Nat.mod_eq_of_lt (by omega)]
    exact hi
  · rw [arrGet_arrSet_other _ _ _ _ hk hwf]
    refine h b hb k ?_ hk2
    by_cases hbi : pair i = b
    · subst hbi
      rw [fillFrom, pairCount_succ_self]
      rw [fillFrom] at hk hk1
      omega
    · rw [fillFrom, pairCount_succ_of_ne _ hbi]
      exact hk1

/-- The fourth loop puts every rotation into a place of its bucket (R228). -/
theorem Safe.fillBuckets
    (h : FillReady n block (fillFrom (pairAt block n.toNat) n.toNat n.toNat) s) :
    Safe R s (Machine.loopDown (fun i => do
      let j ← Machine.pairOp i
      let c ← Machine.readFtab j
      Machine.writeFtab j (c - 1#32)
      writeZptr (c - 1#32).toNat (BitVec.ofNat 32 i)) n.toNat) fun _ t =>
      FillReady n block (fillFrom (pairAt block n.toNat) n.toNat 0) t ∧
        Filled (pairAt block n.toNat) n.toNat 0 t := by
  refine .loopDown (fun i t => FillReady n block (fillFrom (pairAt block n.toNat) n.toNat i) t ∧
    Filled (pairAt block n.toNat) n.toNat i t) n.toNat ⟨h, ?_⟩ fun i t hi ⟨ht, hfilled⟩ => ?_
  · intro j _ k hk1 hk2
    rw [pairsBelow_succ] at hk2
    rw [fillFrom] at hk1
    omega
  set pair := pairAt block n.toNat
  have hlt : pair i < numBuckets + 1 := (pairAt_lt ..).trans (Nat.lt_succ_self _)
  have hplace := fillFrom_lt pair hi
  have hwf : arrWf t.zptr = true := ht.held.rest.tables.zptr_wf
  have hc : BitVec.ofNat 32 (fillFrom pair n.toNat (i + 1) (pair i)) - 1#32 =
      BitVec.ofNat 32 (fillFrom pair n.toNat i (pair i)) := by
    rw [fillFrom, pairCount_succ_self, ← Nat.add_assoc, BitVec.ofNat_add, BitVec.add_sub_cancel]
    rfl
  have hidx : (BitVec.ofNat 32 (fillFrom pair n.toNat i (pair i))).toNat =
      fillFrom pair n.toNat i (pair i) := by
    have hn := n.isLt
    rw [BitVec.toNat_ofNat, Nat.mod_eq_of_lt (by omega)]
  have hset := ht.set_ftab (g := fillFrom pair n.toNat i) (j := pair i) fun k _ hk => by
    rw [fillFrom, fillFrom, pairCount_succ_of_ne _ (Ne.symm hk)]
  refine .ok_bind (FillHeld.pairOp ht.held i) (.ok_bind (FillReady.readFtab ht hlt) ?_)
  rw [hc, hidx]
  refine .ok_bind (writeFtab_of_lt hlt)
    (.of_ok (writeZptr_of_lt (hplace.trans_le (FillHeld.n_le hset.held)))
      ⟨⟨?_, hset.2⟩, hfilled.set hwf hi⟩)
  obtain ⟨⟨hblock, -, hftab⟩, hb⟩ := hset.held.rest
  exact ⟨⟨ht.held.models, ⟨hblock, arrWf_arrSet hwf _ _, hftab⟩, hb⟩, ht.held.range⟩

/-- The bucket pass leaves start positions below N in every place, and FTAB within N (R228). -/
theorem Safe.bucketFillOp (h : CoderReady (TablesHeld n) s) :
    Safe R s bucketFillOp fun _ t =>
      CoderReady (SortHeld n t.ftab []) t ∧
        ∀ j < numBuckets + 1, (arrGet t.ftab j).toNat ≤ n.toNat := by
  set pair := pairAt s.block n.toNat
  have hn : s.n = n := h.rest.block.n_eq
  have hbelow : pairsBelow pair n.toNat numBuckets = n.toNat :=
    pairsBelow_of_forall_lt pair fun m => pairAt_lt ..
  have hnone : ∀ i, pairCount pair numBuckets i = 0 := fun i =>
    pairCount_eq_zero pair fun m => pairAt_lt ..
  unfold Machine.bucketFillOp
  refine .get ?_
  rw [hn]
  refine .bind (.clearFtab (block := s.block) (h.mono ⟨h.rest, rfl⟩)) fun _ t ht => ?_
  refine .bind (.countPairs ht) fun _ t ht => .bind (.sumCounts ht) fun _ t ht => ?_
  refine .bind (.writeFtab (fillFrom pair n.toNat n.toNat) ht (Nat.lt_succ_self _) ?_ ?_)
    fun _ t ht => .mono (.fillBuckets ht) ?_
  · rw [fillFrom, hbelow, hnone, Nat.add_zero, BitVec.ofNat_toNat, BitVec.setWidth_eq]
  · intro j hj hne
    rw [fillFrom, partialEnds, if_pos (by omega), pairsBelow_succ]
  · rintro _ u ⟨⟨hu, hftab⟩, hfilled⟩
    obtain ⟨⟨⟨hfits, hq, rfl⟩, hzptr, -⟩, -⟩ := hu.rest
    refine ⟨⟨⟨hu.models, hfits, rfl, rfl, hq, hzptr, fun k _ hk => ?_⟩, hu.range⟩, fun j hj => ?_⟩
    · rw [← hbelow] at hk
      obtain ⟨j, hj, hk1, hk2⟩ := exists_bucket pair hk
      exact hfilled j hj k (by rwa [fillFrom, pairCount, Nat.count_zero, Nat.add_zero]) hk2
    · have hle := pairsBelow_le (pairAt s.block u.n.toNat) u.n.toNat j
      have hlt := u.n.isLt
      rw [hftab j hj, fillFrom, pairCount, Nat.count_zero, Nat.add_zero, BitVec.toNat_ofNat,
        Nat.mod_eq_of_lt (by omega)]
      exact hle

/-- A bucket with two elements at least is sorted (R228). -/
theorem Safe.sortBucket {ftab : Arr 32}
    (hftab : ∀ j < numBuckets + 1, (arrGet ftab j).toNat ≤ n.toNat) {j : Nat} (hj : j < numBuckets) (h : CoderReady (SortHeld n ftab []) s) :
    Safe R s (sortBucket j) fun _ => CoderReady (SortHeld n ftab []) := by
  obtain ⟨-, -, rfl, -⟩ := h.rest
  have hend := hftab (j + 1) (by omega)
  refine .ok_bind (readFtab_of_lt (by omega)) (.ok_bind (readFtab_of_lt (by omega)) ?_)
  refine .ite (fun hlt => ?_) fun _ => .pure h
  have hlast : (arrGet s.ftab (j + 1) - 1#32).toNat = (arrGet s.ftab (j + 1)).toNat - 1 :=
    BitVec.toNat_sub_of_le (BitVec.le_def.2 (by simp; omega))
  exact .qsortOp h (by omega) (by omega)

theorem Safe.bucketSortOp (h : CoderReady (TablesHeld n) s) :
    Safe R s bucketSortOp fun _ => CoderReady (BlockHeld n) := by
  refine .bind (.buildPadOp h) fun _ t ht => .bind (.bucketFillOp ht) fun _ u ⟨hu, hftab⟩ => ?_
  refine .mono (.loopUp (fun _ => CoderReady (SortHeld n u.ftab [])) _ _ hu fun j v _ hj hv =>
    .sortBucket hftab (by omega) hv) fun _ v hv => ?_
  obtain ⟨hfits, hn, -, hq, -⟩ := hv.rest
  exact hv.mono ⟨hfits, hq, hn⟩

/-- SORT ends with the block as it was, or raises ORIGPTR_NOT_FOUND (R220). -/
theorem Safe.sortOp (h : CoderReady (TablesHeld n) s) :
    Safe (ModelsReady Bounded) s sortOp fun _ => CoderReady (BlockHeld n) := by
  unfold Machine.sortOp
  have hblock := TablesHeld.blockHeld h
  exact .get (.ite (fun _ => .bind (.smallSortOp hblock) fun _ _ => .findOrigptrOp) fun _ =>
    .bind (.bucketSortOp h) fun _ _ => .findOrigptrOp)

end Buckets
end Sys2Proof.Machine
end

/-! PROOFS. The family `20_memory.md`, O10: from every legal state a step answers a legal state.  Each phase is
safe from its bounds and leaves those of the next; the host's acts touch nothing an index rests on. -/
section
namespace Sys2Proof.Machine

variable {s : State}

/-! ## Headers and trailers -/

theorem coderFree_bounded : CoderFree Bounded := fun _ _ _ _ _ _ _ _ h => h

theorem coderFree_levelHeld : CoderFree LevelHeld := fun _ _ _ _ _ _ _ _ h => h

/-- HEADER_C ends with a level that fits, or raises RESOURCE (R301). -/
theorem Safe.headerCOp (h : CoderReady Bounded s) (hlevel : 1 ≤ s.level.toNat) :
    Safe (ModelsReady Bounded) s headerCOp fun _ => CoderReady LevelHeld := by
  unfold Machine.headerCOp
  refine .get (.check (fun _ => h.ready) fun hfit => .ok_bind (crcInitOp_apply s) ?_)
  refine .modify_bind (.ok_bind (encInitOp_apply _) (.get (.of_ok (pushBits_apply ..) ?_)))
  exact ⟨⟨h.models, ⟨hlevel, Nat.le_of_not_lt hfit⟩, h.rest⟩, half_in_range⟩

/-- The magic of a level from 1 to 9 that fits, or a fault (R310). -/
theorem Safe.magicReceived (w : Word) (h : CoderReady Bounded s) :
    Safe (ModelsReady Bounded) s (magicReceived w) fun _ => CoderReady LevelHeld := by
  unfold Machine.magicReceived
  refine .check (fun _ => h.ready) fun _ => ?_
  refine .check (fun _ => h.ready) fun _ => ?_
  refine .check (fun _ => h.ready) fun hdigit => .modify_bind (.get ?_)
  refine .ite (fun _ => .raise h.ready) fun hfit => .pure ?_
  obtain ⟨hlo, hhi⟩ := not_or.1 hdigit
  have hlevel : 1 ≤ (w.extractLsb' 0 4).toNat := by
    rw [BitVec.not_lt, BitVec.le_def] at hlo hhi
    simp only [BitVec.extractLsb'_toNat, BitVec.toNat_ofNat] at hlo hhi ⊢
    omega
  exact ⟨⟨h.models, ⟨hlevel, Nat.le_of_not_lt hfit⟩, h.rest⟩, h.range⟩

/-- HEADER_D ends with a level that fits, or raises a fault, or waits (R310). -/
theorem Safe.headerDOp (h : CoderReady Bounded s) :
    Safe (ModelsReady Bounded) s headerDOp fun _ => CoderReady LevelHeld := by
  unfold Machine.headerDOp
  refine .bind (.pullWordBits coderFree_bounded (fun _ ht => ht) _ _ h) fun w t ht => ?_
  refine .bind (.magicReceived w ht) fun _ u hu => .ok_bind (crcInitOp_apply u) ?_
  exact .decStartOp coderFree_levelHeld (fun _ hv => ⟨hv.models, hv.rest.bounded⟩) hu.ready

theorem Safe.trailerCOp (h : CoderReady Bounded s) :
    Safe (ModelsReady Bounded) s trailerCOp fun _ => CoderReady Bounded :=
  .ok_bind (crcFinalOp_apply s) (.bind (.putU32Op coderFree_bounded (fun _ ht => ht) _ h)
    fun _ _ => .encFlushOp coderFree_bounded)

theorem Safe.trailerDOp (h : CoderReady Bounded s) :
    Safe (ModelsReady Bounded) s trailerDOp fun _ => CoderReady Bounded := by
  refine .bind (.getU32Op coderFree_bounded (fun _ ht => ht) h) fun w t ht => ?_
  exact .ok_bind (crcFinalOp_apply t) (.ite (fun _ => .raise ht.ready) fun _ => .pure ht)

/-! ## Legal states -/

/-- A legal state of a core without a fault, but for the bounds of its phase. -/
def CoreLegal (s : State) : Prop := arraysOk s ∧ listOk s ∧ CoderReady Bounded s ∧ s.latch = none

theorem legalState.coreLegal (h : legalState s) (hf : s.fault = false) : CoreLegal s := by
  obtain ⟨harr, hlist, hmodels, hrange, hn, -, hq, hlatch⟩ := h
  exact ⟨harr, hlist, ⟨⟨hmodels, hn, hq⟩, hrange hf⟩, hlatch⟩

theorem legalState.models (h : legalState s) : modelsOk s :=
  have ⟨_, _, hmodels, _⟩ := h
  hmodels

theorem legalState.phaseBounds (h : legalState s) (hb : s.busy = true) : phaseBounds s := by
  obtain ⟨-, -, -, -, -, hbounds, -, -⟩ := h
  exact hbounds hb

theorem CoreLegal.legalState (h : CoreLegal s) (hb : s.busy = true → Machine.phaseBounds s) :
    legalState s := by
  obtain ⟨harr, hlist, hready, hlatch⟩ := h
  obtain ⟨hn, hq⟩ := hready.rest
  exact ⟨harr, hlist, hready.models, fun _ => hready.range, hn, hb, hq, hlatch⟩

theorem CoreLegal.nextPhase (h : CoreLegal s) : CoreLegal (nextPhase s) := by
  rcases nextPhase_cases s with hn | ⟨p, -, hn⟩ | hn <;> rw [hn] <;> exact h

/-- A fault taken (R352): the coder's range and the phase's bounds are no longer needed. -/
theorem legalState_takeFault (f : FaultCode) (harr : arraysOk s) (hlist : listOk s)
    (h : ModelsReady Bounded s) (hlatch : s.latch = none) : legalState (takeFault f s) :=
  ⟨harr, hlist, h.models, nofun, h.rest.1, nofun, h.rest.2, hlatch⟩

/-- The reset values are legal, with any parameters that are (R294, R380). -/
theorem legalState_clearedState (h : modelsOk s) : legalState (clearedState s) :=
  ⟨arraysOk_clearedState s, .refl _, modelsOk_initialModels h.params rfl, fun _ => half_in_range,
    Nat.zero_le _, nofun, rfl, rfl⟩

/-! ## Phases -/

/-- The bounds a phase leaves for the next one (R300). -/
def phaseLeaves (p : Phase) (s : State) : Prop :=
  match p with
  | .idle | .trailerC | .trailerD => True
  | .headerC | .encode | .headerD | .unrle => levelFits s
  | .loadRle | .spot | .sort | .decode | .invertSort | .unspot => blockFits s

theorem phaseBounds_nextPhase (h : phaseLeaves s.phase s) (hb : (nextPhase s).busy = true) :
    phaseBounds (nextPhase s) := by
  unfold nextPhase at hb ⊢
  cases hp : s.phase <;> rw [hp] at h hb
  case idle => exact (congrArg (fun p => phaseBounds { s with phase := p }) hp).mpr trivial
  case encode | unrle =>
    dsimp only
    split <;> exact h
  case trailerC | trailerD => cases hb
  all_goals exact h

/-- `t` comes from `s` by an operation: it is in the same phase, and the latch is as it was. -/
theorem OpReach.phase_latch {s t : State} (h : OpReach s t) : t.phase = s.phase ∧ t.latch = s.latch := by
  refine h.keeps (P := fun u => u.phase = s.phase ∧ u.latch = s.latch) ?_ ⟨rfl, rfl⟩
  intro u v hu huv
  cases hu <;> exact huv

/-- The instruction of a phase (R300). -/
def phaseInstr : Phase → Instr
  | .idle => .phaseIdle
  | .headerC => .phaseHeaderC
  | .loadRle => .phaseLoadRle
  | .spot => .phaseSpot
  | .sort => .phaseSort
  | .encode => .phaseEncode
  | .trailerC => .phaseTrailerC
  | .headerD => .phaseHeaderD
  | .decode => .phaseDecode
  | .invertSort => .phaseInvertSort
  | .unspot => .phaseUnspot
  | .unrle => .phaseUnrle
  | .trailerD => .phaseTrailerD

theorem decode_phaseCode (p : Phase) : decode (.phase (phaseCode p)) = .ok (phaseInstr p) := by
  cases p <;> rfl

/-- The operation of a phase, before its transition (R300). -/
def phaseOp : Phase → Seq Unit
  | .idle => pure ()
  | .headerC => headerCOp
  | .loadRle => loadOp
  | .spot => spotApplyOp .plus
  | .sort => sortOp
  | .encode => encodeBlockOp
  | .trailerC => trailerCOp
  | .headerD => headerDOp
  | .decode => decodeBlockOp
  | .invertSort => inverseOp
  | .unspot => spotApplyOp .minus
  | .unrle => unloadOp
  | .trailerD => trailerDOp

theorem exec_phaseInstr {p : Phase} (hp : p ≠ .idle) (s : State) :
    exec (phaseInstr p) s = performPhase (phaseOp p) s := by
  cases p
  case idle => exact absurd rfl hp
  all_goals rfl

theorem Stable.preserves_phaseOp {P : State → Prop} (hP : Stable P) : ∀ p, Preserves P (phaseOp p)
  | .idle => .pure ()
  | .headerC => hP.preserves_headerCOp
  | .loadRle => hP.preserves_loadOp
  | .spot => hP.preserves_spotApplyOp .plus
  | .sort => hP.preserves_sortOp
  | .encode => hP.preserves_encodeBlockOp
  | .trailerC => hP.preserves_trailerCOp
  | .headerD => hP.preserves_headerDOp
  | .decode => hP.preserves_decodeBlockOp
  | .invertSort => hP.preserves_inverseOp
  | .unspot => hP.preserves_spotApplyOp .minus
  | .unrle => hP.preserves_unloadOp
  | .trailerD => hP.preserves_trailerDOp

theorem BlockHeld.leaves {n : Word} {t : State} (h : CoderReady (BlockHeld n) t) :
    CoderReady Bounded t ∧ blockFits t :=
  ⟨h.mono h.rest.levelHeld.bounded, h.rest.fits⟩

theorem LevelHeld.leaves {t : State} (h : CoderReady LevelHeld t) :
    CoderReady Bounded t ∧ levelFits t :=
  ⟨h.mono h.rest.bounded, h.rest.level⟩

/-- Every phase is safe from its bounds, and leaves those of the next (R62). -/
theorem Safe.phaseOp {p : Phase} (hs : CoreLegal s) (hp : s.phase = p)
    (hbounds : Machine.phaseBounds s) :
    Safe (ModelsReady Bounded) s (phaseOp p) fun _ t => CoderReady Bounded t ∧ phaseLeaves p t := by
  obtain ⟨⟨-, hzptr, -, -, hftab, -⟩, hlist, hready, -⟩ := hs
  obtain ⟨hn, hq⟩ := hready.rest
  have hlevel : levelFits s → CoderReady LevelHeld s := fun h => hready.mono ⟨h, hn, hq⟩
  have hblock : blockFits s → CoderReady (BlockHeld s.n) s := fun h => hready.mono ⟨h, hq, rfl⟩
  cases p <;> rw [Machine.phaseBounds, hp] at hbounds
  case idle => exact .pure ⟨hready, trivial⟩
  case headerC => exact .mono (.headerCOp hready hbounds) fun _ _ => LevelHeld.leaves
  case loadRle => exact .mono (.loadOp (hlevel hbounds)) fun _ _ => BlockHeld.leaves
  case spot => exact .mono (.spotApplyOp _ (hblock hbounds)) fun _ _ => BlockHeld.leaves
  case sort =>
    exact .mono (.sortOp (hready.mono ⟨(hblock hbounds).rest, hzptr, hftab⟩))
      fun _ _ => BlockHeld.leaves
  case encode =>
    exact .mono (.encodeBlockOp (hready.mono ⟨(hblock hbounds).rest, hlist⟩))
      fun _ _ ht => LevelHeld.leaves (ht.mono ht.rest.block.levelHeld)
  case trailerC => exact .mono (.trailerCOp hready) fun _ _ ht => ⟨ht, trivial⟩
  case headerD => exact .mono (.headerDOp hready) fun _ _ => LevelHeld.leaves
  case decode =>
    exact .mono (.decodeBlockOp (hlevel hbounds) hlist) fun _ _ => BlockHeld.leaves
  case invertSort => exact .mono (.inverseOp (hblock hbounds)) fun _ _ => BlockHeld.leaves
  case unspot => exact .mono (.spotApplyOp _ (hblock hbounds)) fun _ _ => BlockHeld.leaves
  case unrle =>
    exact .mono (.unloadOp (hblock hbounds))
      fun _ _ ht => LevelHeld.leaves (ht.mono ht.rest.levelHeld)
  case trailerD => exact .mono (.trailerDOp hready) fun _ _ ht => ⟨ht, trivial⟩

/-- A busy core goes from a legal state to a legal state. -/
theorem phase_legal (hs : legalState s) (hf : s.fault = false) (hb : s.busy = true) :
    ∃ t, exec (phaseInstr s.phase) s = .next t ∧ legalState t := by
  by_cases hidle : s.phase = .idle
  · exact ⟨s, by rw [hidle]; rfl, hs⟩
  have hcore := hs.coreLegal hf
  have hsafe := Safe.phaseOp hcore rfl (hs.phaseBounds hb)
  obtain ⟨harr, hlist, -, hlatch⟩ := hcore
  obtain ⟨t, ht, hcases⟩ :=
    performPhase_of_safe (hsafe.and_preserves ((stable_opReach s).preserves_phaseOp s.phase) .refl)
  rw [exec_phaseInstr hidle]
  refine ⟨t, ht, ?_⟩
  rcases hcases with rfl | ⟨f, u, ⟨hu, hr⟩, rfl⟩ | ⟨u, ⟨⟨hready, hleaves⟩, hr⟩, rfl⟩
  · exact hs
  · exact legalState_takeFault f (hr.keeps stable_arraysOk harr) (hr.keeps stable_listOk hlist) hu
      (hr.phase_latch.2.trans hlatch)
  · rw [← hr.phase_latch.1] at hleaves
    have hcore : CoreLegal u := ⟨hr.keeps stable_arraysOk harr, hr.keeps stable_listOk hlist,
      hready, hr.phase_latch.2.trans hlatch⟩
    exact hcore.nextPhase.legalState (phaseBounds_nextPhase hleaves)

/-! ## One step -/

/-- The sequencer performs the phase a busy core is in, else IDLE (R291, R300). -/
theorem sequencerStep_of_latch_none (hf : s.fault = false) (hlatch : s.latch = none) :
    sequencerStep s = exec (phaseInstr (if s.busy then s.phase else .idle)) s := by
  have hsame : { s with latch := none } = s := by rw [← hlatch]
  rw [sequencerStep, if_neg (by simp [hf]), hsame, fetchCode, hlatch, performCode, decode_phaseCode]

theorem sequencerStep_legal (hs : legalState s) :
    ∃ t, sequencerStep s = .next t ∧ legalState t := by
  cases hf : s.fault with
  | true => exact ⟨s, by rw [sequencerStep, if_pos hf], hs⟩
  | false =>
    obtain ⟨-, -, -, hlatch⟩ := hs.coreLegal hf
    rw [sequencerStep_of_latch_none hf hlatch]
    cases hb : s.busy with
    | true => exact phase_legal hs hf hb
    | false => exact ⟨s, rfl, hs⟩

/-- An illegal command raises its fault, or it is dropped (R290, R296). -/
theorem legalState_illegalCommand (hs : legalState s) : legalState (illegalCommand s) := by
  unfold illegalCommand
  split
  · exact hs
  next hd =>
    obtain ⟨harr, hlist, hready, hlatch⟩ :=
      hs.coreLegal (fault_of_not_dropped (by simpa using hd))
    exact legalState_takeFault _ harr hlist hready.ready hlatch

/-- COMPRESS and DECOMPRESS are dropped, refused as illegal, or begin a phase with its bounds (R290). -/
theorem execCompress_legal (lvl : BitVec 4) (hs : legalState s) :
    ∃ t, execCompress lvl s = .next t ∧ legalState t := by
  unfold execCompress
  split
  · exact ⟨s, rfl, hs⟩
  next hd =>
    split
    next hlvl =>
      obtain ⟨harr, hlist, hready, hlatch⟩ :=
        hs.coreLegal (fault_of_not_dropped (by simpa using hd))
      simp only [levelOk, Bool.and_eq_true, decide_eq_true_eq] at hlvl
      have hcore : CoreLegal (acceptCompress lvl s) := ⟨harr, hlist, hready, hlatch⟩
      exact ⟨_, rfl, hcore.legalState fun _ => hlvl.1⟩
    next => exact ⟨_, rfl, legalState_illegalCommand hs⟩

theorem execDecompress_legal (hs : legalState s) :
    ∃ t, execDecompress s = .next t ∧ legalState t := by
  unfold execDecompress
  split
  · exact ⟨s, rfl, hs⟩
  next hd =>
    obtain ⟨harr, hlist, hready, hlatch⟩ :=
      hs.coreLegal (fault_of_not_dropped (by simpa using hd))
    have hcore : CoreLegal (acceptDecompress s) := ⟨harr, hlist, hready, hlatch⟩
    exact ⟨_, rfl, hcore.legalState fun _ => trivial⟩

/-- A host write to CMD (R290): the phase an accepted command begins has its bounds. -/
theorem writeCmd_legal (w : Word) (hs : legalState s) :
    ∃ t, writeCmd w s = .next t ∧ legalState t := by
  unfold writeCmd
  split
  next i hi =>
    rcases decodeCmd_ok hi with rfl | ⟨lvl, rfl⟩ | rfl | ⟨rfl, -⟩
    · exact ⟨s, rfl, hs⟩
    · exact execCompress_legal lvl hs
    · exact execDecompress_legal hs
    · exact ⟨_, rfl, legalState_clearedState hs.models⟩
  next => exact ⟨_, rfl, legalState_illegalCommand hs⟩

/-- Every act of the host and the environment (R62). -/
theorem hostAct_legal (e : HostEvent) (rest : List HostEvent) (hs : legalState s) :
    ∃ t, hostAct e s { s with host := rest } = .next t ∧ legalState t := by
  have hrest : legalState { s with host := rest } := hs
  cases e with
  | write reg w =>
    simp only [hostAct, hostWrite]
    split
    · exact writeCmd_legal w hrest
    · exact ⟨_, rfl, hrest⟩
  | abortAfter k =>
    obtain ⟨t, ht, -⟩ := sequencerStep_legal hrest
    refine ⟨cutShort k { s with host := rest } t, ?_, legalState_clearedState hs.models⟩
    simp only [hostAct, abortDuring, ht]
  | read reg =>
    refine ⟨_, rfl, ?_⟩
    rw [hostRead_frame]
    exact hs
  | feedBytes bytes eod => exact ⟨_, rfl, hs⟩
  | feedBits bits eod => exact ⟨_, rfl, hs⟩
  | dropInput => exact ⟨_, rfl, hs⟩
  | wait =>
    simp only [hostAct]
    split
    · exact sequencerStep_legal hs
    · exact ⟨_, rfl, hs⟩
  | gap => exact sequencerStep_legal hrest
  | reset => exact ⟨_, rfl, legalState_clearedState hs.models⟩

/-- Settles O10, by the phases' bounds and the host's acts. -/
theorem legalStatesNeverStop : Obligations.LegalStatesNeverStop := by
  intro s hs
  unfold step stepOnce
  split
  · exact sequencerStep_legal hs
  next e rest _ => exact hostAct_legal e rest hs

end Sys2Proof.Machine
end

/-! PROOFS. The family `30_encoding.md`, the coded items: every table accepts exactly the encodings of
well-formed instructions (`decode_ok_iff`), from which the two round trips and the list of legal words
follow. -/
section
namespace Sys2Proof.Machine

/-! ## The words with a level in them -/

/-- The command word of COMPRESS by its fields OP, LVL and ZERO (R91). -/
theorem compressWord_fields (lvl : BitVec 4) :
    (0x00000001#32 ||| lvl.zeroExtend 32 <<< 8).extractLsb' 0 8 = 0x01#8 ∧
      (0x00000001#32 ||| lvl.zeroExtend 32 <<< 8).extractLsb' 8 4 = lvl ∧
      (0x00000001#32 ||| lvl.zeroExtend 32 <<< 8).extractLsb' 12 20 = 0#20 := by
  revert lvl
  decide

theorem toNat_compressWord (lvl : BitVec 4) :
    (0x00000001#32 ||| lvl.zeroExtend 32 <<< 8).toNat = 1 + 256 * lvl.toNat := by
  revert lvl
  decide

/-- The bytes of the magic word of a level, and the level in its low four bits (R96). -/
theorem magicWord_fields (lvl : BitVec 4) :
    (magicBase + lvl.zeroExtend 32).extractLsb' 24 8 = 0x42#8 ∧
      (magicBase + lvl.zeroExtend 32).extractLsb' 16 8 = 0x5A#8 ∧
      (magicBase + lvl.zeroExtend 32).extractLsb' 8 8 = 0x30#8 ∧
      ((magicBase + lvl.zeroExtend 32).extractLsb' 0 8).toNat = 0x30 + lvl.toNat ∧
      (magicBase + lvl.zeroExtend 32).extractLsb' 0 4 = lvl := by
  revert lvl
  decide

theorem toNat_magicWord (lvl : BitVec 4) :
    (magicBase + lvl.zeroExtend 32).toNat = 0x425A3030 + lvl.toNat := by
  revert lvl
  decide

/-- Any word is the magic word of its low four bits if its bytes are those of a legal magic (R96). -/
theorem eq_magicWord {w : Word} (h3 : w.extractLsb' 24 8 = 0x42#8) (h2 : w.extractLsb' 16 8 = 0x5A#8)
    (h1 : w.extractLsb' 8 8 = 0x30#8) (hlo : 0x31 ≤ (w.extractLsb' 0 8).toNat)
    (hhi : (w.extractLsb' 0 8).toNat ≤ 0x39) :
    w = magicBase + (w.extractLsb' 0 4).zeroExtend 32 ∧ levelOk (w.extractLsb' 0 4) = true := by
  replace h3 := congrArg BitVec.toNat h3
  replace h2 := congrArg BitVec.toNat h2
  replace h1 := congrArg BitVec.toNat h1
  have hlevel : (w.extractLsb' 0 4).toNat = w.toNat % 16 := by simp
  simp only [BitVec.extractLsb'_toNat, BitVec.toNat_ofNat, Nat.shiftRight_eq_div_pow] at h3 h2 h1 hlo hhi
  constructor
  · apply BitVec.eq_of_toNat_eq
    rw [toNat_magicWord, hlevel]
    omega
  · simp only [levelOk, hlevel, Bool.and_eq_true, decide_eq_true_eq]
    omega

/-! ## What the tables accept -/

/-- A code read by its number is that number. -/
theorem eq_ofNat_of_toNat {w n : Nat} {c : BitVec w} (h : c.toNat = n) : BitVec.ofNat w n = c := by
  rw [← h, BitVec.ofNat_toNat, BitVec.setWidth_eq]

variable {i : Instr}

/-- An accepted command word (R91, R92). -/
theorem encode_of_decodeCmd {w : Word} (h : decodeCmd w = .ok i) :
    encode i = some (.cmd w) ∧ i.wellFormed = true := by
  simp only [decodeCmd] at h
  split_ifs at h with hzero hop hlevel hop hlvl hop hlvl hop hlvl
  all_goals
    replace hzero := not_not.1 hzero
    obtain rfl := Except.ok.inj h
  · obtain ⟨hop', hlvl', hzero'⟩ := compressWord_fields (w.extractLsb' 8 4)
    exact ⟨congrArg (some ∘ Code.cmd)
      (cmdWord_eq_of_fields (hop'.trans hop.symm) hlvl' (hzero'.trans hzero.symm)), hlevel⟩
  all_goals
    exact ⟨congrArg (some ∘ Code.cmd) (cmdWord_eq_of_fields hop.symm hlvl.symm hzero.symm), rfl⟩

/-- An accepted PHASE code (R23). -/
theorem encode_of_decodePhase {c : BitVec 4} (h : decodePhase c = .ok i) :
    encode i = some (.phase c) ∧ i.wellFormed = true := by
  unfold decodePhase at h
  split at h
  case h_14 => cases h
  all_goals
    next hc =>
    obtain rfl := Except.ok.inj h
    exact ⟨congrArg (some ∘ Code.phase) (eq_ofNat_of_toNat hc), rfl⟩

/-- An accepted fault code (R341). -/
theorem encode_of_decodeFault {c : Byte} (h : decodeFault c = .ok i) :
    encode i = some (.fault c) ∧ i.wellFormed = true := by
  unfold decodeFault at h
  split at h
  case h_13 => cases h
  all_goals
    next hc =>
    obtain rfl := Except.ok.inj h
    exact ⟨congrArg (some ∘ Code.fault) (eq_ofNat_of_toNat hc), rfl⟩

/-- An accepted number of the basis alphabet (R100). -/
theorem encode_of_decodeBasis {c : BitVec 4} (h : decodeBasis c = .ok i) :
    encode i = some (.basis c) ∧ i.wellFormed = true := by
  unfold decodeBasis at h
  split at h
  case h_12 => cases h
  all_goals
    next hc =>
    obtain rfl := Except.ok.inj h
    exact ⟨congrArg (some ∘ Code.basis) (eq_ofNat_of_toNat hc), rfl⟩

/-- An accepted magic (R96). -/
theorem encode_of_decodeMagic {w : Word} (h : decodeMagic w = .ok i) :
    encode i = some (.magic w) ∧ i.wellFormed = true := by
  unfold decodeMagic at h
  split at h
  next hbytes =>
    obtain ⟨h3, h2, h1, hlo, hhi⟩ := hbytes
    obtain ⟨hw, hlevel⟩ := eq_magicWord h3 h2 h1 hlo hhi
    obtain rfl := Except.ok.inj h
    exact ⟨congrArg (some ∘ Code.magic) hw.symm, hlevel⟩
  · cases h

/-- An accepted unit: one to three equal bytes, or four and a count (R105). -/
theorem encode_of_decodeUnit {bytes : List Byte} (h : decodeUnit bytes = .ok i) :
    encode i = some (.unit bytes) ∧ i.wellFormed = true := by
  unfold decodeUnit at h
  split at h
  · obtain rfl := Except.ok.inj h
    exact ⟨rfl, rfl⟩
  · split at h
    next heq =>
      subst heq
      obtain rfl := Except.ok.inj h
      exact ⟨rfl, rfl⟩
    · cases h
  · split at h
    next heq =>
      obtain ⟨rfl, rfl⟩ := heq
      obtain rfl := Except.ok.inj h
      exact ⟨rfl, rfl⟩
    · cases h
  · split at h
    next heq =>
      obtain ⟨rfl, rfl, rfl⟩ := heq
      obtain rfl := Except.ok.inj h
      exact ⟨rfl, rfl⟩
    · cases h
  · cases h

/-- The byte 42 at the sentinel's place (R106). -/
theorem encode_of_decode_sentinel {b : Byte} (h : decode (.sentinel b) = .ok i) :
    encode i = some (.sentinel b) ∧ i.wellFormed = true := by
  simp only [decode] at h
  split at h
  next heq =>
    obtain rfl := Except.ok.inj h
    exact ⟨congrArg (some ∘ Code.sentinel) heq.symm, rfl⟩
  · cases h

/-! ## What the encoder writes -/

/-- The decoder reads back COMPRESS of a legal level (R91). -/
theorem decode_compressWord {lvl : BitVec 4} (h : levelOk lvl = true) :
    decode (.cmd (0x00000001#32 ||| lvl.zeroExtend 32 <<< 8)) = .ok (.compress lvl) := by
  obtain ⟨hop, hlvl, hzero⟩ := compressWord_fields lvl
  simp [decode, decodeCmd, hop, hlvl, hzero, h]

/-- The decoder reads back the magic of a legal level (R96). -/
theorem decode_magicWord {lvl : BitVec 4} (h : levelOk lvl = true) :
    decode (.magic (magicBase + lvl.zeroExtend 32)) = .ok (.streamMagic lvl) := by
  obtain ⟨h3, h2, h1, h0, hlvl⟩ := magicWord_fields lvl
  simp only [levelOk, Bool.and_eq_true, decide_eq_true_eq] at h
  rw [decode, decodeMagic, if_pos ⟨h3, h2, h1, by omega, by omega⟩, hlvl]

/-- The decoder reads back a unit of one to three equal bytes (R105). -/
theorem decode_shortUnit (c : Byte) {r : BitVec 2} (h : 1 ≤ r.toNat) :
    decode (.unit (List.replicate r.toNat c)) = .ok (.rle1Short c r) := by
  obtain rfl | rfl | rfl : r = 1#2 ∨ r = 2#2 ∨ r = 3#2 := by
    revert r
    decide
  · rfl
  · exact if_pos rfl
  · exact if_pos ⟨rfl, rfl⟩

theorem decode_of_encode {c : Code} (hi : i.wellFormed = true) (h : encode i = some c) :
    decode c = .ok i := by
  cases i
  case compress lvl =>
    obtain rfl := Option.some.inj h
    exact decode_compressWord hi
  case streamMagic lvl =>
    obtain rfl := Option.some.inj h
    exact decode_magicWord hi
  case rle1Short b r =>
    obtain rfl := Option.some.inj h
    exact decode_shortUnit b (of_decide_eq_true hi)
  case rle1Long b n =>
    obtain rfl := Option.some.inj h
    exact if_pos ⟨rfl, rfl, rfl⟩
  all_goals cases h <;> rfl

theorem encode_of_decode {c : Code} (h : decode c = .ok i) :
    encode i = some c ∧ i.wellFormed = true := by
  cases c with
  | cmd w => exact encode_of_decodeCmd h
  | phase c => exact encode_of_decodePhase h
  | fault c => exact encode_of_decodeFault h
  | basis c => exact encode_of_decodeBasis h
  | magic w => exact encode_of_decodeMagic h
  | origword w | crc32 w =>
    obtain rfl := Except.ok.inj h
    exact ⟨rfl, rfl⟩
  | unit bytes => exact encode_of_decodeUnit h
  | sentinel b => exact encode_of_decode_sentinel h

/-- The decoder accepts exactly the encodings of the well-formed instructions. -/
theorem decode_ok_iff {c : Code} : decode c = .ok i ↔ encode i = some c ∧ i.wellFormed = true :=
  ⟨encode_of_decode, fun ⟨h, hi⟩ => decode_of_encode hi h⟩

/-- Settles O1, by the encoder's rows: those with an operand in the word have a lemma each. -/
theorem decodeUndoesEncode : Obligations.DecodeUndoesEncode := fun _ _ hi h =>
  decode_ok_iff.2 ⟨h, hi⟩

/-- Settles O2, table by table. -/
theorem encodeUndoesDecode : Obligations.EncodeUndoesDecode := fun _ _ h => decode_ok_iff.1 h

/-! ## The legal words -/

/-- The instructions with a command word, and the word of each (R91). -/
theorem encode_eq_cmd_iff {w : Word} :
    encode i = some (.cmd w) ↔
      i = .nop ∧ w.toNat = 0 ∨ i = .decompress ∧ w.toNat = 2 ∨ i = .abort ∧ w.toNat = 15 ∨
        ∃ lvl, i = .compress lvl ∧ w.toNat = 1 + 256 * lvl.toNat := by
  constructor
  · intro h
    cases i
    case nop =>
      cases h
      exact .inl ⟨rfl, rfl⟩
    case decompress =>
      cases h
      exact .inr (.inl ⟨rfl, rfl⟩)
    case abort =>
      cases h
      exact .inr (.inr (.inl ⟨rfl, rfl⟩))
    case compress lvl =>
      cases h
      exact .inr (.inr (.inr ⟨lvl, rfl, toNat_compressWord lvl⟩))
    all_goals cases h
  · rintro (⟨rfl, hw⟩ | ⟨rfl, hw⟩ | ⟨rfl, hw⟩ | ⟨lvl, rfl, hw⟩)
    case inr.inr.inr =>
      exact congrArg (some ∘ Code.cmd)
        (BitVec.eq_of_toNat_eq ((toNat_compressWord lvl).trans hw.symm))
    all_goals exact congrArg (some ∘ Code.cmd) (eq_ofNat_of_toNat hw)

/-- The instructions with a magic word, and the word of each (R96). -/
theorem encode_eq_magic_iff {w : Word} :
    encode i = some (.magic w) ↔ ∃ lvl, i = .streamMagic lvl ∧ w.toNat = 0x425A3030 + lvl.toNat := by
  constructor
  · intro h
    cases i
    case streamMagic lvl =>
      cases h
      exact ⟨lvl, rfl, toNat_magicWord lvl⟩
    all_goals cases h
  · rintro ⟨lvl, rfl, hw⟩
    exact congrArg (some ∘ Code.magic) (BitVec.eq_of_toNat_eq ((toNat_magicWord lvl).trans hw.symm))

theorem levelOk_iff {lvl : BitVec 4} : levelOk lvl = true ↔ 1 ≤ lvl.toNat ∧ lvl.toNat ≤ 9 := by
  simp [levelOk]

/-- A number from 1 to 9 as a level. -/
theorem level_of_nat {n : Nat} (hlo : 1 ≤ n) (hhi : n ≤ 9) :
    (BitVec.ofNat 4 n).toNat = n ∧ levelOk (BitVec.ofNat 4 n) = true := by
  have hn : (BitVec.ofNat 4 n).toNat = n := Nat.mod_eq_of_lt (by omega)
  exact ⟨hn, levelOk_iff.2 (by omega)⟩

/-- The legal command words (R91, R92). -/
theorem cmdWord_of_decode_ok {w : Word} (h : decode (.cmd w) = .ok i) :
    w.toNat = 0 ∨ w.toNat = 2 ∨ w.toNat = 15 ∨
      (w.toNat % 256 = 1 ∧ 1 ≤ w.toNat / 256 ∧ w.toNat / 256 ≤ 9) := by
  obtain ⟨henc, hi⟩ := encode_of_decode h
  obtain ⟨-, hw⟩ | ⟨-, hw⟩ | ⟨-, hw⟩ | ⟨lvl, rfl, hw⟩ := encode_eq_cmd_iff.1 henc
  case inr.inr.inr =>
    have hlevel := levelOk_iff.1 hi
    omega
  all_goals omega

/-- The nine magic words (R96). -/
theorem magicWord_of_decode_ok {w : Word} (h : decode (.magic w) = .ok i) :
    0x425A3031 ≤ w.toNat ∧ w.toNat ≤ 0x425A3039 := by
  obtain ⟨henc, hi⟩ := encode_of_decode h
  obtain ⟨lvl, rfl, hw⟩ := encode_eq_magic_iff.1 henc
  have hlevel := levelOk_iff.1 hi
  omega

theorem decode_magic_of_not_ok {w : Word} (h : ∀ i, decode (.magic w) ≠ .ok i) :
    decode (.magic w) = .error .notMagic := by
  simp only [decode, decodeMagic] at h ⊢
  split
  next hbytes => exact absurd (if_pos hbytes) (h _)
  · rfl

/-- Settles O3, by the encoder's command and magic words. -/
theorem legalWords : Obligations.LegalWords := by
  intro w
  refine ⟨fun hw => ?_, fun hw => ?_, fun hw => ?_, fun hop hlo hhi => ?_, fun hw => ?_,
    fun ⟨hlo, hhi⟩ => ?_, fun hw => ?_⟩
  · exact decode_of_encode rfl (encode_eq_cmd_iff.2 (.inl ⟨rfl, hw⟩))
  · exact decode_of_encode rfl (encode_eq_cmd_iff.2 (.inr (.inl ⟨rfl, hw⟩)))
  · exact decode_of_encode rfl (encode_eq_cmd_iff.2 (.inr (.inr (.inl ⟨rfl, hw⟩))))
  · obtain ⟨hn, hlevel⟩ := level_of_nat hlo hhi
    exact decode_of_encode hlevel (encode_eq_cmd_iff.2 (.inr (.inr (.inr ⟨_, rfl, by omega⟩))))
  · cases hd : decode (.cmd w) with
    | error e => exact ⟨e, rfl⟩
    | ok i => exact absurd (cmdWord_of_decode_ok hd) hw
  · obtain ⟨hn, hlevel⟩ := level_of_nat (n := w.toNat - 0x425A3030) (by omega) (by omega)
    exact decode_of_encode hlevel (encode_eq_magic_iff.2 ⟨_, rfl, by omega⟩)
  · exact decode_magic_of_not_ok fun i hi => hw (magicWord_of_decode_ok hi)

/-- Settles O4: twelve words, each evaluated by its table. -/
theorem tableWordsDecode : Obligations.TableWordsDecode :=
  ⟨rfl, rfl, rfl, rfl, rfl, rfl, rfl, rfl, rfl, rfl, rfl, rfl⟩

end Sys2Proof.Machine
end

/-! PROOFS. The family `30_encoding.md`, run digits and the `origPtr` word: one digit as a function of the
state, the digits of a run in natural numbers, and the check of the magnitude. -/
section
namespace Sys2Proof.Machine

/-- A raise is taken as the fault entry with its code (R352). -/
theorem perform_faulted {α : Type} {op : Seq α} {s t : State} {f : FaultCode}
    (h : op s = .error (.raise f) t) : perform op s = .next (faulted (faultCodeBits f) t) :=
  perform_of_raise h

/-! ## One digit (R201) -/

/-- The state after a run digit, before its capacity check. -/
def absorbed (d : RunDigit) (s : State) : State :=
  { s with
    runacc := s.runacc + (match d with | .runa => 2#32 * s.runw | .runb => s.runw)
    runw := s.runw <<< 1 }

theorem absorbOp_apply (d : RunDigit) (s : State) :
    absorbOp d s =
      if capOf s < s.pos.toNat + (absorbed d s).runacc.toNat then
        .error (.raise .blockOverrun) (absorbed d s)
      else .ok () (absorbed d s) := by
  simp only [absorbOp, seq_bind, seq_modify, seq_get, seq_ite, raise_apply, seq_pure]
  rfl

/-- A digit that fits leaves the run longer. -/
theorem exec_mtfAbsorb_of_fits {d : RunDigit} {s : State}
    (h : s.pos.toNat + (absorbed d s).runacc.toNat ≤ capOf s) :
    exec (.mtfAbsorb d) s = .next (absorbed d s) :=
  perform_of_ok ((absorbOp_apply d s).trans (if_neg (Nat.not_lt.2 h)))

/-- A digit that does not fit raises BLOCK_OVERRUN. -/
theorem exec_mtfAbsorb_of_overrun {d : RunDigit} {s : State}
    (h : capOf s < s.pos.toNat + (absorbed d s).runacc.toNat) :
    exec (.mtfAbsorb d) s = .next (faulted 0x12#8 (absorbed d s)) :=
  perform_faulted ((absorbOp_apply d s).trans (if_pos h))

/-! ## The run string (R102) -/

theorem runString_zero : runString 0 = [] := rfl

/-- The first digit of a run is the lowest bit of `k + 1`; the rest is the run string of the half. -/
theorem runString_succ (k : Nat) :
    runString (k + 1) = (if (k + 2).testBit 0 then .runa else .runb) :: runString (k / 2) := by
  have hhalf : (k + 2) / 2 = k / 2 + 1 := by omega
  have hlog : Nat.log2 (k + 2) = Nat.log2 (k / 2 + 1) + 1 := by
    rw [Nat.log2_def, if_pos (by omega), hhalf]
  simp only [runString, hlog, List.range_succ_eq_map, List.map_cons, List.map_map, Function.comp_def,
    Nat.succ_eq_add_one, Nat.testBit_succ, hhalf]

/-- "`sum over i of d_i * 2^i = k`" (R102). -/
theorem runValue_runString (k : Nat) : runValue (runString k) = k := by
  induction k using Nat.strongRecOn with
  | ind k ih =>
    cases k with
    | zero => rfl
    | succ k =>
      rw [runString_succ, runValue, ih (k / 2) (by omega), Nat.testBit_zero]
      by_cases hodd : (k + 2) % 2 = 1
      · simp only [hodd, decide_true, if_true, digitWeight]
        omega
      · simp only [hodd, decide_false, Bool.false_eq_true, if_false, digitWeight]
        omega

/-! ## All digits of a run (R201) -/

theorem capOf_lt (s : State) : capOf s < 2 ^ 31 := by
  have := s.level.isLt
  simp only [capOf, blockUnit]
  omega

/-- The state with a run of length `a` and the next digit's weight `w`. -/
def withRun (s : State) (a w : Nat) : State :=
  { s with runacc := BitVec.ofNat 32 a, runw := BitVec.ofNat 32 w }

theorem absorbed_withRun (d : RunDigit) (s : State) (a w : Nat) :
    absorbed d (withRun s a w) = withRun s (a + digitWeight d * w) (2 * w) := by
  have hw : BitVec.ofNat 32 w <<< 1 = BitVec.ofNat 32 (2 * w) := by
    apply BitVec.eq_of_toNat_eq
    simp [Nat.shiftLeft_eq, Nat.mul_comm]
  cases d <;> simp [absorbed, withRun, digitWeight, hw, BitVec.ofNat_add, BitVec.ofNat_mul]

/-- A digit that fits makes the run longer by its weight. -/
theorem absorbOp_withRun {d : RunDigit} {s : State} {a w : Nat}
    (h : s.pos.toNat + (a + digitWeight d * w) ≤ capOf s) :
    absorbOp d (withRun s a w) = .ok () (withRun s (a + digitWeight d * w) (2 * w)) := by
  have hcap := capOf_lt s
  have hacc : (BitVec.ofNat 32 (a + digitWeight d * w)).toNat = a + digitWeight d * w :=
    Nat.mod_eq_of_lt (by omega)
  rw [absorbOp_apply, absorbed_withRun, if_neg]
  exact Nat.not_lt.2 (hacc.symm ▸ h)

/-- The digits of a run that fits make it longer by their value. -/
theorem absorbAll_withRun {s : State} : ∀ (digits : List RunDigit) (a w : Nat),
    s.pos.toNat + (a + w * runValue digits) ≤ capOf s →
    absorbAll digits (withRun s a w) =
      .ok () (withRun s (a + w * runValue digits) (w * 2 ^ digits.length))
  | [], a, w, _ => by simp [absorbAll, runValue, seq_pure]
  | d :: rest, a, w, h => by
    have hsum : a + digitWeight d * w + 2 * w * runValue rest = a + w * runValue (d :: rest) := by
      rw [runValue]
      ring
    have hfirst : s.pos.toNat + (a + digitWeight d * w) ≤ capOf s := by omega
    simp only [absorbAll, seq_bind, absorbOp_withRun hfirst]
    rw [absorbAll_withRun rest _ _ (by omega), hsum, List.length_cons]
    congr 2
    ring

/-! ## The `origPtr` word's magnitude (R203) -/

/-- A magnitude that fits no rotation (R203). -/
theorem badOrigptr_iff (mag n : Word) :
    mag = 0#32 ∨ n ≤ mag - 1#32 ↔ mag = 0#32 ∨ n.toNat ≤ mag.toNat - 1 := by
  refine or_congr_right' fun h => ?_
  have hpos : mag.toNat ≠ 0 := fun h0 => h (BitVec.eq_of_toNat_eq h0)
  have hpred : (mag - 1#32).toNat = mag.toNat - 1 := by bv_omega
  rw [BitVec.le_def, hpred]

theorem exec_mtfCheckOrigptr_of_fits {mag : Word} {s : State} (h0 : mag ≠ 0#32)
    (hn : mag.toNat - 1 < s.n.toNat) :
    exec (.mtfCheckOrigptr mag) s = .next { s with origptr := mag - 1#32 } := by
  have hfits : ¬ (mag = 0#32 ∨ s.n.toNat ≤ mag.toNat - 1) := by
    rintro (h | h)
    · exact h0 h
    · omega
  exact perform_of_ok ((checkOrigptrOp_apply mag s).trans
    (if_neg (mt (badOrigptr_iff mag s.n).1 hfits)))

theorem exec_mtfCheckOrigptr_of_bad {mag : Word} {s : State}
    (h : mag = 0#32 ∨ s.n.toNat ≤ mag.toNat - 1) :
    exec (.mtfCheckOrigptr mag) s = .next (faulted 0x15#8 s) :=
  perform_faulted ((checkOrigptrOp_apply mag s).trans (if_pos ((badOrigptr_iff mag s.n).2 h)))

/-- Settles O57, by the digit as a function of the state and induction on the digits of a run. -/
theorem runDigitsAndOrigptr : Obligations.RunDigitsAndOrigptr := by
  refine fun s => ⟨?_, fun k hk hacc hw => ⟨runValue_runString k, ?_⟩, fun mag =>
    ⟨exec_mtfCheckOrigptr_of_fits, exec_mtfCheckOrigptr_of_bad⟩⟩
  · rintro d _ rfl
    exact ⟨exec_mtfAbsorb_of_fits, exec_mtfAbsorb_of_overrun⟩
  · have hs : withRun s 0 1 = s := by
      rw [withRun, ← hacc, ← hw]
    have hrun := absorbAll_withRun (s := s) (runString k) 0 1 (by rw [runValue_runString]; omega)
    rwa [hs, runValue_runString, Nat.zero_add, Nat.one_mul, Nat.one_mul] at hrun

end Sys2Proof.Machine
end

/-! PROOFS. The family `30_encoding.md`, the items of the stream and of a block: each one sent and received.
`PutsBytes` says once what an operation that appends to BLOCK does. -/
section
namespace Sys2Proof.Machine

variable {s : State}

/-! ## The direction by MODE (log entry 12) -/

theorem perform_sent (hm : s.mode ≠ .decompress) (x y : Seq Unit) :
    perform (sendOrReceive x y) s = perform x s := by
  rw [perform, sendOrReceive_apply, if_neg hm, perform]

theorem perform_received (hm : s.mode = .decompress) (x y : Seq Unit) :
    perform (sendOrReceive x y) s = perform y s := by
  rw [perform, sendOrReceive_apply, if_pos hm, perform]

/-! ## The magic (R96, R301, R310) -/

theorem wordBits_eq_testBit (w : Word) :
    wordBits w = (List.range 32).map fun i => w.toNat.testBit (31 - i) := by
  simp only [wordBits, BitVec.testBit_toNat]

theorem exec_streamMagic_sent (hm : s.mode ≠ .decompress) (lvl : BitVec 4) :
    exec (.streamMagic lvl) s =
      .next { s with
        bitOut := s.bitOut ++
          (List.range 32).map fun i => (0x425A3030 + lvl.toNat).testBit (31 - i) } := by
  rw [← toNat_magicWord, ← wordBits_eq_testBit]
  exact (perform_sent hm _ _).trans (perform_of_ok (pushBits_apply _ s))

/-- The magic word of a level judged: BAD_MAGIC unless the level is legal, RESOURCE unless it fits, and LEVEL
is written before the second check (R310). -/
theorem magicReceived_magicWord (lvl : BitVec 4) (s : State) :
    magicReceived (magicBase + lvl.zeroExtend 32) s =
      if levelOk lvl = true then
        if s.par.maxLevel < lvl.toNat then .error (.raise .resource) { s with level := lvl }
        else .ok () { s with level := lvl }
      else .error (.raise .badMagic) s := by
  obtain ⟨h3, h2, h1, h0, hlvl⟩ := magicWord_fields lvl
  have hdigit : ((magicBase + lvl.zeroExtend 32).extractLsb' 0 8 < 0x31#8 ∨
      0x39#8 < (magicBase + lvl.zeroExtend 32).extractLsb' 0 8) ↔ ¬ levelOk lvl = true := by
    rw [levelOk_iff, BitVec.lt_def, BitVec.lt_def, h0, BitVec.toNat_ofNat, BitVec.toNat_ofNat]
    omega
  simp only [magicReceived, h3, h2, h1, hdigit, hlvl, ne_eq, not_true_eq_false, or_self, if_false]
  by_cases hlevel : levelOk lvl = true
  · simp only [if_pos hlevel, if_neg (not_not.2 hlevel), seq_bind, seq_pure, seq_modify, seq_get,
      seq_ite, raise_apply]
  · simp only [if_neg hlevel, if_pos hlevel, seq_bind, raise_apply]

/-- A legal magic received: LEVEL is written, and a level that does not fit raises RESOURCE. -/
theorem exec_streamMagic_received (hm : s.mode = .decompress) {lvl : BitVec 4}
    (hlevel : levelOk lvl = true) :
    exec (.streamMagic lvl) s =
      .next (if lvl.toNat ≤ s.par.maxLevel then { s with level := lvl }
        else faulted 0x20#8 { s with level := lvl }) := by
  have hjudged := magicReceived_magicWord lvl s
  rw [if_pos hlevel] at hjudged
  refine (perform_received hm _ _).trans ?_
  by_cases hfit : lvl.toNat ≤ s.par.maxLevel
  · rw [if_pos hfit]
    exact perform_of_ok (hjudged.trans (if_neg (Nat.not_lt.2 hfit)))
  · rw [if_neg hfit]
    exact perform_faulted (hjudged.trans (if_pos (Nat.lt_of_not_le hfit)))

theorem exec_streamMagic_bad (hm : s.mode = .decompress) {lvl : BitVec 4}
    (hlevel : ¬ levelOk lvl = true) :
    exec (.streamMagic lvl) s = .next (faulted 0x10#8 s) :=
  (perform_received hm _ _).trans
    (perform_faulted ((magicReceived_magicWord lvl s).trans (if_neg hlevel)))

/-! ## The 32-bit fields received (R104, R315) -/

theorem exec_streamOrigword_received (hm : s.mode = .decompress) (w : Word) :
    exec (.streamOrigword w) s =
      .next { s with
        finalBlock := w.getLsbD 31, result := [if w.getLsbD 31 then 0#32 - w else w] } :=
  perform_received hm _ _

theorem exec_streamCrc32_received (hm : s.mode = .decompress) (w : Word) :
    exec (.streamCrc32 w) s = .next (if w = ~~~ s.crc then s else faulted 0x14#8 s) := by
  refine (perform_received hm _ _).trans ?_
  have hcompared := crcReceived_apply w s
  by_cases h : w = ~~~ s.crc
  · rw [if_pos h]
    exact perform_of_ok (hcompared.trans (if_neg (not_not.2 h)))
  · rw [if_neg h]
    exact perform_faulted (hcompared.trans (if_pos h))

/-! ## Bytes put into a block (R262) -/

/-- `op` puts `bytes` into BLOCK at the running length, which goes on behind them; it changes nothing else. -/
def PutsBytes (op : Seq Unit) (bytes : List Byte) : Prop :=
  ∀ s : State, Memory.wf s.block = true → blockSize s < 2 ^ 32 →
    s.pos.toNat + bytes.length ≤ blockSize s →
    ∃ t, op s = .ok () t ∧ Memory.wf t.block = true ∧ appendsBlock s t bytes ∧
      t = { s with block := t.block, pos := s.pos + BitVec.ofNat 32 bytes.length }

/-- One append after another. -/
theorem appendsBlock_append {s t u : State} {xs ys : List Byte}
    (hpos : t.pos.toNat = s.pos.toNat + xs.length) (hx : appendsBlock s t xs)
    (hy : appendsBlock t u ys) : appendsBlock s u (xs ++ ys) := by
  intro i
  rw [hy i, hx i, hpos, List.length_append]
  by_cases hlow : i < s.pos.toNat + xs.length
  · by_cases hstart : s.pos.toNat ≤ i
    · rw [if_neg (by omega), if_pos ⟨hstart, hlow⟩, if_pos ⟨hstart, by omega⟩,
        List.getD_append _ _ _ _ (by omega)]
    · rw [if_neg (by omega), if_neg (by omega), if_neg (by omega)]
  · by_cases hhigh : i < s.pos.toNat + xs.length + ys.length
    · rw [if_pos (by omega), if_pos (by omega), List.getD_append_right _ _ _ _ (by omega),
        Nat.sub_add_eq]
    · rw [if_neg (by omega), if_neg (by omega), if_neg (by omega)]

theorem PutsBytes.nil : PutsBytes (pure ()) [] := by
  refine fun s hwf _ _ => ⟨s, rfl, hwf, fun i => ?_, ?_⟩
  · rw [if_neg (by simp)]
  · simp

theorem PutsBytes.appendBlock (b : Byte) : PutsBytes (appendBlock b) [b] := by
  intro s hwf _ hroom
  refine ⟨_, appendBlock_of_lt hroom, arrWf_arrSet hwf _ _, fun i => ?_, rfl⟩
  by_cases hi : i = s.pos.toNat
  · subst hi
    rw [arrGet_arrSet_same _ _ _ hwf, if_pos (by simp), Nat.sub_self]
    rfl
  · rw [arrGet_arrSet_other _ _ _ _ hi hwf, if_neg (by simp only [List.length_singleton]; omega)]

theorem PutsBytes.bind {x y : Seq Unit} {xs ys : List Byte} (hx : PutsBytes x xs)
    (hy : PutsBytes y ys) : PutsBytes (do x; y) (xs ++ ys) := by
  intro s hwf hsize hroom
  rw [List.length_append] at hroom
  obtain ⟨t, hxt, hwft, happ, ht⟩ := hx s hwf hsize (by omega)
  have hpos : t.pos.toNat = s.pos.toNat + xs.length := by
    rw [ht]
    simp only [BitVec.toNat_add, BitVec.toNat_ofNat]
    omega
  have hpar : blockSize t = blockSize s := by rw [ht]; rfl
  obtain ⟨u, hyu, hwfu, happ', hu⟩ := hy t hwft (hpar ▸ hsize) (by omega)
  refine ⟨u, by rw [seq_bind, hxt]; exact hyu, hwfu, appendsBlock_append hpos happ happ', ?_⟩
  rw [hu, ht, List.length_append, BitVec.ofNat_add, ← BitVec.add_assoc]

theorem PutsBytes.repeat (b : Byte) : ∀ k : Nat,
    PutsBytes (repeatTimes (Machine.appendBlock b) k) (List.replicate k b)
  | 0 => .nil
  | k + 1 => .bind (.appendBlock b) (PutsBytes.repeat b k)

/-- A short unit is its byte, one to three times (R105). -/
theorem putsBytes_emitShortOp (c : Byte) (r : Nat) :
    PutsBytes (emitShortOp c r) (List.replicate r c) := .repeat c r

/-- A long unit is its byte four times and the count (R105). -/
theorem putsBytes_emitLongOp (c count : Byte) :
    PutsBytes (emitLongOp c count) [c, c, c, c, count] :=
  .bind (.repeat c 4) (.appendBlock count)

/-- The block memory is smaller than a word counts (R11, R38). -/
theorem blockSize_lt (hp : paramsLegal s.par = true) : blockSize s < 2 ^ 32 := by
  have := maxLevel_of_paramsLegal hp
  simp only [blockSize, capMax, blockUnit, wrapPad]
  omega

/-- An item that puts bytes into the block, sent by itself. -/
theorem PutsBytes.perform_sent {x y : Seq Unit} {bytes : List Byte} (hx : PutsBytes x bytes)
    (hm : s.mode ≠ .decompress) (hp : paramsLegal s.par = true) (ha : arraysOk s)
    (hroom : s.pos.toNat + bytes.length ≤ blockSize s) :
    ∃ t, perform (sendOrReceive x y) s = .next t ∧ appendsBlock s t bytes ∧
      t = { s with block := t.block, pos := s.pos + BitVec.ofNat 32 bytes.length } := by
  obtain ⟨hwf, -⟩ := ha
  obtain ⟨t, hxt, -, happ, ht⟩ := hx s hwf (blockSize_lt hp) hroom
  exact ⟨t, (Machine.perform_sent hm x y).trans (perform_of_ok hxt), happ, ht⟩

theorem exec_rle1Short_sent (hm : s.mode ≠ .decompress) (hp : paramsLegal s.par = true)
    (ha : arraysOk s) (c : Byte) {r : BitVec 2} (hroom : s.pos.toNat + r.toNat ≤ blockSize s) :
    ∃ t, exec (.rle1Short c r) s = .next t ∧ appendsBlock s t (List.replicate r.toNat c) ∧
      t = { s with block := t.block, pos := s.pos + BitVec.ofNat 32 r.toNat } := by
  have hsent := (putsBytes_emitShortOp c r.toNat).perform_sent
    (y := unitReceived c r.toNat) hm hp ha
  rw [List.length_replicate] at hsent
  exact hsent hroom

theorem exec_rle1Long_sent (hm : s.mode ≠ .decompress) (hp : paramsLegal s.par = true)
    (ha : arraysOk s) (c count : Byte) (hroom : s.pos.toNat + 5 ≤ blockSize s) :
    ∃ t, exec (.rle1Long c count) s = .next t ∧ appendsBlock s t [c, c, c, c, count] ∧
      t = { s with block := t.block, pos := s.pos + 5#32 } :=
  (putsBytes_emitLongOp c count).perform_sent hm hp ha hroom

/-- The sentinel is put into the block, which is final with it (R106, R262). -/
theorem exec_rle1Sentinel_sent (hm : s.mode ≠ .decompress) (hp : paramsLegal s.par = true)
    (ha : arraysOk s) (hroom : s.pos.toNat + 1 ≤ blockSize s) :
    ∃ t, exec .rle1Sentinel s = .next t ∧ appendsBlock s t [42#8] ∧
      t = { s with block := t.block, pos := s.pos + 1#32, finalBlock := true } := by
  obtain ⟨hwf, -⟩ := ha
  obtain ⟨t, hput, -, happ, ht⟩ := PutsBytes.appendBlock 42#8 s hwf (blockSize_lt hp) hroom
  have hop : emitSentinelOp s = .ok () { t with finalBlock := true } := by
    rw [emitSentinelOp, seq_bind, sentinel, hput]
    rfl
  refine ⟨{ t with finalBlock := true }, (perform_sent hm _ _).trans (perform_of_ok hop), happ, ?_⟩
  rw [ht]
  rfl

/-! ## Units received (R267) -/

/-- The bytes of a unit go to BYTE_OUT and into CRC. -/
theorem perform_unitReceived (hm : s.mode = .decompress) (x : Seq Unit) (c : Byte) (copies : Nat) :
    perform (sendOrReceive x (unitReceived c copies)) s =
      .next { s with
        byteOut := s.byteOut ++ List.replicate copies c
        crc := crcOver s.crc (List.replicate copies c) } :=
  (perform_received hm _ _).trans (perform_of_ok (pushByte_repeat c copies s))

/-- Settles O59, by the lemma of each item in each direction. -/
theorem streamAndBlockItems : Obligations.StreamAndBlockItems := by
  intro s lvl w c count r hp ha
  refine ⟨fun hm => ⟨exec_streamMagic_sent hm lvl, exec_rle1Short_sent hm hp ha c,
      exec_rle1Long_sent hm hp ha c count, exec_rle1Sentinel_sent hm hp ha⟩, fun hm => ?_⟩
  exact ⟨fun hlevel => exec_streamMagic_received hm (levelOk_iff.2 hlevel),
    fun hlevel => exec_streamMagic_bad hm (mt levelOk_iff.1 hlevel),
    exec_streamOrigword_received hm w, exec_streamCrc32_received hm w,
    perform_unitReceived hm _ c r.toNat, perform_unitReceived hm _ c (4 + count.toNat),
    perform_received hm _ _⟩

end Sys2Proof.Machine
end

/-! PROOFS. The family `40_crc.md`: the checksum operations (R130 to R133). A step of the generating shift
register is linear over exclusive or, and on a word whose top bit is clear it is a plain left shift. So eight
steps over CRC with the byte folded in are eight steps over the table index, which is the table's entry, and
eight plain shifts of the low 24 bits. -/
section
namespace Sys2Proof.Machine

/-! ## The generating shift register (R131) -/

/-- One step of the table's generation rule (R131). -/
def crcShiftOne (c : Word) : Word :=
  if c.getLsbD 31 then (c <<< 1) ^^^ crcPoly else c <<< 1

theorem crcShift_succ (k : Nat) (c : Word) : crcShift (k + 1) c = crcShift k (crcShiftOne c) := rfl

theorem crcShiftOne_of_top_clear {c : Word} (h : c.getLsbD 31 = false) : crcShiftOne c = c <<< 1 :=
  if_neg (Bool.eq_false_iff.1 h)

/-- The polynomial enters a sum of two words exactly when it enters one of them and not the other. -/
theorem crcShiftOne_xor (x y : Word) : crcShiftOne (x ^^^ y) = crcShiftOne x ^^^ crcShiftOne y := by
  simp only [crcShiftOne, BitVec.getLsbD_xor, BitVec.shiftLeft_xor_distrib]
  cases x.getLsbD 31 <;> cases y.getLsbD 31
  case false.false => rfl
  case false.true => exact BitVec.xor_assoc ..
  case true.false => simp only [Bool.xor_false, if_true, Bool.false_eq_true, if_false]; ac_rfl
  case true.true =>
    have hcancel : crcPoly ^^^ crcPoly = 0#32 := BitVec.xor_self
    calc (x <<< 1) ^^^ (y <<< 1)
        = (x <<< 1) ^^^ (y <<< 1) ^^^ (crcPoly ^^^ crcPoly) := by rw [hcancel, BitVec.xor_zero]
      _ = (x <<< 1) ^^^ crcPoly ^^^ ((y <<< 1) ^^^ crcPoly) := by ac_rfl

theorem crcShift_xor (k : Nat) (x y : Word) : crcShift k (x ^^^ y) = crcShift k x ^^^ crcShift k y := by
  induction k generalizing x y with
  | zero => rfl
  | succ k ih => rw [crcShift_succ, crcShiftOne_xor, ih, ← crcShift_succ, ← crcShift_succ]

/-- No polynomial enters while the bits shifted out are clear. -/
theorem crcShift_of_top_clear (k : Nat) (c : Word) (hk : k ≤ 32)
    (h : ∀ i, 32 - k ≤ i → c.getLsbD i = false) : crcShift k c = c <<< k := by
  induction k generalizing c with
  | zero => simp [crcShift]
  | succ k ih =>
    have htop : c.getLsbD 31 = false := h 31 (by omega)
    have hrest : ∀ i, 32 - k ≤ i → (c <<< 1).getLsbD i = false := fun i hi => by
      simp [BitVec.getLsbD_shiftLeft, h (i - 1) (by omega)]
    rw [crcShift_succ, crcShiftOne_of_top_clear htop, ih _ (by omega) hrest, ← BitVec.shiftLeft_add,
      Nat.add_comm]

/-! ## One byte (R132) -/

/-- The part of the accumulator that one byte shifts up and the table does not see. -/
def crcLow (crc : Word) : Word := crc &&& 0x00FFFFFF#32

theorem getLsbD_crcLow (crc : Word) (i : Nat) :
    (crcLow crc).getLsbD i = (crc.getLsbD i && decide (i < 24)) := by
  have hmask : (0x00FFFFFF#32 : Word) = BitVec.setWidth 32 (BitVec.allOnes 24) := rfl
  rw [crcLow, hmask, BitVec.getLsbD_and, BitVec.getLsbD_setWidth, BitVec.getLsbD_allOnes]
  by_cases hi : i < 24 <;> simp [hi]
  omega

theorem crcShift_crcLow (crc : Word) : crcShift 8 (crcLow crc) = crc <<< 8 := by
  have hclear : ∀ i, 32 - 8 ≤ i → (crcLow crc).getLsbD i = false := fun i hi => by
    simp [getLsbD_crcLow, show ¬ i < 24 by omega]
  rw [crcShift_of_top_clear 8 _ (by decide) hclear]
  refine BitVec.eq_of_getLsbD_eq fun i hi => ?_
  have hlow : i - 8 < 24 := by omega
  simp [BitVec.getLsbD_shiftLeft, getLsbD_crcLow, hlow]

/-- The accumulator with the byte folded in is its low part and the table index as the top byte. -/
theorem crc_xor_byte_eq (crc : Word) (b : Byte) :
    crc ^^^ (b.zeroExtend 32 <<< 24) =
      crcLow crc ^^^ ((crc.extractLsb' 24 8 ^^^ b).zeroExtend 32 <<< 24) := by
  refine BitVec.eq_of_getLsbD_eq fun i hi => ?_
  by_cases hlow : i < 24
  · simp [BitVec.getLsbD_shiftLeft, getLsbD_crcLow, hlow]
  · have hindex : i - 24 < 32 ∧ i - 24 < 8 := by omega
    have hbit : 24 + (i - 24) = i := by omega
    simp [-BitVec.getLsbD_eq_getElem, getLsbD_crcLow, hlow, hi, hindex, hbit]

/-- One byte through the table is eight steps of the shift register that generates the table. -/
theorem crcNext_eq_crcShift (crc : Word) (b : Byte) :
    crcNext crc b = crcShift 8 (crc ^^^ (b.zeroExtend 32 <<< 24)) := by
  rw [crc_xor_byte_eq, crcShift_xor, crcShift_crcLow, crcNext, crcTab]

/-- The table index as R132 writes it: CRC shifted down, cut to a byte. -/
theorem extractTopByte_eq (crc : Word) : crc.extractLsb' 24 8 = (crc >>> 24).setWidth 8 :=
  BitVec.setWidth_ushiftRight_eq_extractLsb.symm

/-! ## The three operations -/

theorem exec_crcInit (s : State) : exec .crcInit s = .next { s with crc := crcStart } :=
  perform_of_ok (crcInitOp_apply s)

theorem exec_crcUpdate (b : Byte) (s : State) :
    exec (.crcUpdate b) s = .next { s with crc := crcNext s.crc b } :=
  perform_of_ok (crcUpdateOp_apply b s)

theorem exec_crcFinal (s : State) : exec .crcFinal s = .next { s with result := [~~~ s.crc] } :=
  performValue_of_ok (g := fun w => [w]) (crcFinalOp_apply s)

/-- Settles O44: the three operations, and `crcNext` both as R132 writes it and as the shift register. -/
theorem crcOperations : Obligations.CrcOperations := by
  intro s b
  refine ⟨exec_crcInit s, ?_, ?_, exec_crcFinal s⟩
  · rw [exec_crcUpdate, crcNext, extractTopByte_eq]
  · rw [exec_crcUpdate, crcNext_eq_crcShift]

end Sys2Proof.Machine
end

/-! PROOFS. The family `41_model.md`, the model operations in exact numbers (R141 to R144, R350): no addition
of an update carries out of a word, rescaling halves every frequency rounded up, and only the model named is
written. -/
section
namespace Sys2Proof.Machine

/-! ## The registers of one model in a state -/

section ModelAt

variable {s : State} {m : ModelId}

theorem modelAt_set_self (hlen : s.models.length = 9) (fm : FreqModel) :
    modelAt { s with models := s.models.set m.val fm } m = fm := by
  have hlt : m.val < s.models.length := by omega
  simp [modelAt, hlt]

theorem modelAt_set_of_ne {k : ModelId} (hk : k ≠ m) (fm : FreqModel) :
    modelAt { s with models := s.models.set m.val fm } k = modelAt s k := by
  have hne : m.val ≠ k.val := fun h => hk (Fin.ext h.symm)
  simp [modelAt, List.getD_eq_getElem?_getD, List.getElem?_set_ne hne]

/-- Writing a model's own registers back changes nothing. -/
theorem models_set_modelAt (hlen : s.models.length = 9) :
    s.models.set m.val (modelAt s m) = s.models := by
  have hlt : m.val < s.models.length := by omega
  rw [modelAt, List.getD_eq_getElem _ _ hlt, List.set_getElem_self]

theorem modelsOk.length_eq (h : modelsOk s) : s.models.length = 9 :=
  have ⟨_, hlen, _⟩ := h
  hlen

end ModelAt

/-! ## What the operations answer -/

theorem modelUpdateOp_of_not_lt {m : ModelId} {sym : Nat} (h : ¬ sym < numSymbols m) (s : State) :
    modelUpdateOp m sym s = .error (.raise .modelSymbolRange) s := by
  rw [modelUpdateOp, seq_bind, checkSymbol_of_not_lt h]

theorem encodeOp_of_not_lt {m : ModelId} {sym : Nat} (h : ¬ sym < numSymbols m) (s : State) :
    encodeOp m sym s = .error (.raise .modelSymbolRange) s := by
  rw [encodeOp, seq_bind, checkSymbol_of_not_lt h]

theorem exec_modelInit (m : ModelId) (s : State) :
    exec (.modelInit m) s =
      .next { s with models := s.models.set m.val (initialModel s.par m) } :=
  perform_of_ok (modelInitOp_apply m s)

theorem exec_modelRescale (m : ModelId) (s : State) :
    exec (.modelRescale m) s =
      .next { s with models := s.models.set m.val (rescaled (modelAt s m)) } :=
  perform_of_ok (modelRescaleOp_apply m s)

theorem exec_modelUpdate_of_lt {m : ModelId} {sym : Nat} (h : sym < numSymbols m) (s : State) :
    exec (.modelUpdate m sym) s =
      .next { s with models := s.models.set m.val (updatedModel s.par m (modelAt s m) sym) } :=
  perform_of_ok (modelUpdateOp_of_lt h s)

/-! ## Bounds (R9, R10) -/

/-- One update past the limit still fits, for BOGUS too. -/
theorem limitOf_add_incOf_le {p : Params} (hp : paramsLegal p = true) (m : ModelId) :
    limitOf p m + incOf p m ≤ quarter.toNat := by
  by_cases hm : m = bogusModel
  · subst hm
    rw [limitOf_bogusModel, incOf_bogusModel]
    decide
  · obtain ⟨-, -, hle⟩ := adaptive_of_paramsLegal hp hm
    exact hle

/-- A number not above QUARTER is the value of its word. -/
theorem toNat_ofNat_of_le_quarter {k : Nat} (h : k ≤ quarter.toNat) :
    (BitVec.ofNat 32 k).toNat = k := by
  have hquarter : quarter.toNat < 2 ^ 32 := by decide
  rw [BitVec.toNat_ofNat, Nat.mod_eq_of_lt (by omega)]

/-! ## Initialisation (R141) -/

section Initial

variable {p : Params} (hp : paramsLegal p = true) (m : ModelId)
include hp

theorem initialModel_freq :
    (initialModel p m).freq.map BitVec.toNat = List.replicate (numSymbols m) (initialUnit p m) := by
  obtain ⟨-, hlim⟩ := initialUnit_bounds hp m
  have hle : initialUnit p m ≤ numSymbols m * initialUnit p m :=
    Nat.le_mul_of_pos_left _ (by have := one_lt_numSymbols m; omega)
  have hunit := toNat_ofNat_of_le_quarter (hle.trans (hlim.trans (limitOf_le_quarter hp m)))
  calc (initialModel p m).freq.map BitVec.toNat
      = List.replicate (numSymbols m) (BitVec.ofNat 32 (initialUnit p m)).toNat :=
        List.map_replicate
    _ = List.replicate (numSymbols m) (initialUnit p m) := by rw [hunit]

theorem initialModel_totFreq :
    (initialModel p m).totFreq.toNat = numSymbols m * initialUnit p m := by
  obtain ⟨-, hlim⟩ := initialUnit_bounds hp m
  exact toNat_ofNat_of_le_quarter (hlim.trans (limitOf_le_quarter hp m))

end Initial

/-! ## Rescaling (R143) -/

/-- Where the frequencies fit a word with room for one, rescaling is exact. -/
theorem rescaled_freq {fm : FreqModel} (h : (fm.freq.map BitVec.toNat).sum + 1 < 2 ^ 32) :
    (rescaled fm).freq.map BitVec.toNat =
      (fm.freq.map BitVec.toNat).map fun f => (f + 1) / 2 := by
  simp only [rescaled, List.map_map]
  exact List.map_congr_left fun f hf => toNat_halved (by have := toNat_le_sum hf; omega)

section OneModel

variable {p : Params} {m : ModelId} {fm : FreqModel}

theorem modelOk.totFreq_eq_sum (h : modelOk p m fm) :
    fm.totFreq.toNat = (fm.freq.map BitVec.toNat).sum :=
  have ⟨_, _, htot, _, _⟩ := h
  htot

theorem modelOk.totFreq_le_limit (h : modelOk p m fm) : fm.totFreq.toNat ≤ limitOf p m :=
  have ⟨_, _, _, hlim, _⟩ := h
  hlim

variable (hp : paramsLegal p = true) (h : modelOk p m fm)
include hp h

/-- With one update added, the frequencies still sum to at most QUARTER. -/
theorem modelOk.sum_add_incOf_le : (fm.freq.map BitVec.toNat).sum + incOf p m ≤ quarter.toNat := by
  have hlim := h.totFreq_le_limit
  have hle := limitOf_add_incOf_le hp m
  rw [h.totFreq_eq_sum] at hlim
  omega

/-- BOGUS has frequency 1 everywhere, and half of 1 rounded up is 1. -/
theorem rescaled_eq_self_of_bogusModel (hm : m = bogusModel) : rescaled fm = fm := by
  have hquarter : quarter.toNat < 2 ^ 32 := by decide
  have hle := h.sum_add_incOf_le hp
  obtain ⟨-, -, htot, -, hone⟩ := h
  have hfreq : (fm.freq.map fun f => (f + 1#32) >>> 1) = fm.freq :=
    (List.map_congr_left fun f hf => by rw [hone hm f hf]; rfl).trans (List.map_id fm.freq)
  have hsum : sumWords fm.freq = fm.totFreq :=
    BitVec.eq_of_toNat_eq ((toNat_sumWords (by omega)).trans htot.symm)
  rw [rescaled, hfreq, hsum]

/-- Rescaling by itself (R143) keeps R146 too. -/
theorem modelOk.rescaled : modelOk p m (rescaled fm) := by
  by_cases hm : m = bogusModel
  · rwa [rescaled_eq_self_of_bogusModel hp h hm]
  · have hlim := h.totFreq_le_limit
    rw [h.totFreq_eq_sum] at hlim
    obtain ⟨hlen, hpos, -⟩ := h
    exact modelOk_rescaled hp hm hlen hpos (hlim.trans (Nat.le_add_right ..))

theorem rescaled_freq_of_modelOk :
    (rescaled fm).freq.map BitVec.toNat = fm.freq.map fun f => (f.toNat + 1) / 2 := by
  have hquarter : quarter.toNat + 1 < 2 ^ 32 := by decide
  have hle := h.sum_add_incOf_le hp
  rw [rescaled_freq (by omega), List.map_map]
  rfl

/-! ## Updating (R142) -/

theorem bumped_totFreq (sym : Nat) :
    (bumped (incOf p m) fm sym).totFreq.toNat = fm.totFreq.toNat + incOf p m := by
  have hquarter : quarter.toNat < 2 ^ 32 := by decide
  have hle := h.sum_add_incOf_le hp
  rw [← h.totFreq_eq_sum] at hle
  rw [bumped, BitVec.toNat_add, toNat_ofNat_of_le_quarter (by omega), Nat.mod_eq_of_lt (by omega)]

theorem toNat_freqAt_add_incOf {sym : Nat} (hsym : sym < numSymbols m) :
    (freqAt fm sym + BitVec.ofNat 32 (incOf p m)).toNat = freqNat fm sym + incOf p m := by
  have hquarter : quarter.toNat < 2 ^ 32 := by decide
  have hle := h.sum_add_incOf_le hp
  have hlen := h.length_eq
  have hf : (freqAt fm sym).toNat ≤ (fm.freq.map BitVec.toNat).sum :=
    toNat_le_sum (getD_mem (by omega))
  have hfreq : (freqAt fm sym).toNat = freqNat fm sym := (List.getD_map ..).symm
  rw [BitVec.toNat_add, toNat_ofNat_of_le_quarter (by omega), Nat.mod_eq_of_lt (by omega), hfreq]

theorem bumped_freq {sym : Nat} (hsym : sym < numSymbols m) :
    (bumped (incOf p m) fm sym).freq.map BitVec.toNat =
      (fm.freq.map BitVec.toNat).set sym (freqNat fm sym + incOf p m) := by
  rw [bumped, List.map_set, toNat_freqAt_add_incOf hp h hsym]

theorem bumped_sum {sym : Nat} (hsym : sym < numSymbols m) :
    ((bumped (incOf p m) fm sym).freq.map BitVec.toNat).sum =
      (fm.freq.map BitVec.toNat).sum + incOf p m := by
  have hset := sum_map_toNat_set (freqAt fm sym + BitVec.ofNat 32 (incOf p m))
    (hsym.trans_eq h.length_eq.symm)
  have hfreq : (fm.freq.getD sym 0#32).toNat = freqNat fm sym := (List.getD_map ..).symm
  rw [toNat_freqAt_add_incOf hp h hsym, hfreq] at hset
  dsimp only [bumped]
  omega

theorem updatedModel_of_fits (hinc : incOf p m ≠ 0) {sym : Nat}
    (hfit : fm.totFreq.toNat + incOf p m ≤ limitOf p m) :
    updatedModel p m fm sym = bumped (incOf p m) fm sym := by
  rw [← bumped_totFreq hp h sym] at hfit
  rw [updatedModel, if_neg hinc]
  exact if_neg (Nat.not_lt.2 hfit)

theorem updatedModel_of_exceeds (hinc : incOf p m ≠ 0) {sym : Nat}
    (hover : limitOf p m < fm.totFreq.toNat + incOf p m) :
    updatedModel p m fm sym = rescaled (bumped (incOf p m) fm sym) := by
  rw [← bumped_totFreq hp h sym] at hover
  rw [updatedModel, if_neg hinc]
  exact if_pos hover

theorem updatedModel_freq_of_exceeds (hinc : incOf p m ≠ 0) {sym : Nat} (hsym : sym < numSymbols m)
    (hover : limitOf p m < fm.totFreq.toNat + incOf p m) :
    (updatedModel p m fm sym).freq.map BitVec.toNat =
      ((fm.freq.map BitVec.toNat).set sym (freqNat fm sym + incOf p m)).map
        fun f => (f + 1) / 2 := by
  have hquarter : quarter.toNat + 1 < 2 ^ 32 := by decide
  have hle := h.sum_add_incOf_le hp
  rw [updatedModel_of_exceeds hp h hinc hover,
    rescaled_freq (by rw [bumped_sum hp h hsym]; omega), bumped_freq hp h hsym]

end OneModel

/-! ## The family's statement -/

/-- Settles O45: each operation's registers in exact numbers, written to the one model; a symbol outside it
stops `model.update` and `ac.encode` before anything is written. -/
theorem modelOperations : Obligations.ModelOperations := by
  intro s m sym h
  have hp := h.params
  have hm : modelOk s.par m (modelAt s m) := h.model m
  have hlen := h.length_eq
  refine ⟨?init, ?rescale, fun hsym => ?update, fun hsym => ?outside⟩
  case init =>
    refine ⟨_, exec_modelInit m s, rfl, fun _ hne => modelAt_set_of_ne hne _, ?_⟩
    rw [modelAt_set_self hlen]
    exact ⟨initialModel_freq hp m, initialModel_totFreq hp m⟩
  case rescale =>
    refine ⟨_, exec_modelRescale m s, rfl, fun _ hne => modelAt_set_of_ne hne _, ?_⟩
    rw [modelAt_set_self hlen]
    exact ⟨rescaled_freq_of_modelOk hp hm, (hm.rescaled hp).totFreq_eq_sum⟩
  case update =>
    refine ⟨_, exec_modelUpdate_of_lt hsym s, rfl, fun _ hne => modelAt_set_of_ne hne _,
      fun h0 => ?_, fun hinc hfit => ?_, fun hinc hover => ?_⟩
    · have hsame : updatedModel s.par m (modelAt s m) sym = modelAt s m := if_pos h0
      rw [hsame, models_set_modelAt hlen]
    · rw [modelAt_set_self hlen, updatedModel_of_fits hp hm hinc hfit]
      exact ⟨bumped_totFreq hp hm sym, bumped_freq hp hm hsym⟩
    · rw [modelAt_set_self hlen]
      exact ⟨updatedModel_freq_of_exceeds hp hm hinc hsym hover,
        (modelOk_updatedModel hp hm (by rwa [hm.length_eq])).totFreq_eq_sum⟩
  case outside =>
    exact ⟨perform_of_raise (modelUpdateOp_of_not_lt (Nat.not_lt.2 hsym) s),
      perform_of_raise (encodeOp_of_not_lt (Nat.not_lt.2 hsym) s)⟩

end Sys2Proof.Machine
end

/-! PROOFS. The operations that write neither a model nor R, and the properties they keep. `Stable` lets an
operation write any value there, so a property of the models or of R is not `Stable`: it needs this finer
rule, over the updates that leave both. -/
section
namespace Sys2Proof.Machine

variable {P : State → Prop}

/-- `P` survives every update of an operation that leaves the models and the coder's range. -/
def StableOutsideCoder (P : State → Prop) : Prop :=
  ∀ ⦃s t⦄, OpUpdate s t → t.models = s.models → t.r = s.r → P s → P t

namespace StableOutsideCoder

variable (hP : StableOutsideCoder P)
include hP

/-! ## Arrays -/

theorem preserves_writeBlock (i : Nat) (v : Byte) : Preserves P (writeBlock i v) :=
  .get fun _ _ => .bind (.checkIndex _ _) fun _ => .modify fun _ => hP (.block ..) rfl rfl

theorem preserves_writeZptr (i : Nat) (v : Word) : Preserves P (writeZptr i v) :=
  .get fun _ _ => .bind (.checkIndex _ _) fun _ => .modify fun _ => hP (.zptr ..) rfl rfl

theorem preserves_writeLl (i : Nat) (v : Byte) : Preserves P (writeLl i v) :=
  .get fun _ _ => .bind (.checkIndex _ _) fun _ => .modify fun _ => hP (.ll ..) rfl rfl

theorem preserves_writeNext (i : Nat) (v : Word) : Preserves P (writeNext i v) :=
  .get fun _ _ => .bind (.checkIndex _ _) fun _ => .modify fun _ => hP (.nextIdx ..) rfl rfl

theorem preserves_writeFtab (i : Nat) (v : Word) : Preserves P (writeFtab i v) :=
  .bind (.checkIndex _ _) fun _ => .modify fun _ => hP (.ftab ..) rfl rfl

theorem preserves_writeCc (b : Byte) (v : Word) : Preserves P (writeCc b v) :=
  .modify fun _ => hP (.cc ..) rfl rfl

/-! ## Checksum and ports -/

theorem preserves_crcInitOp : Preserves P crcInitOp := .modify fun _ => hP (.registers ..) rfl rfl

theorem preserves_crcUpdateOp (b : Byte) : Preserves P (crcUpdateOp b) :=
  .modify fun _ => hP (.registers ..) rfl rfl

theorem preserves_pullByte : Preserves P pullByte :=
  .get fun s hs => by
    split
    next b rest h => exact .bind (.set (hP (.pullByte b rest _ h) rfl rfl hs)) fun _ => .pure _
    next => exact .ite (.pure _) .wait

theorem preserves_pullBit : Preserves P pullBit :=
  .get fun s hs => by
    split
    next b rest h => exact .bind (.set (hP (.pullBit b rest h) rfl rfl hs)) fun _ => .pure _
    next => exact .ite (.raise _) .wait

theorem preserves_pushBits (bits : List Bool) : Preserves P (pushBits bits) :=
  .modify fun _ => hP (.pushBits ..) rfl rfl

theorem preserves_pushByte (b : Byte) : Preserves P (pushByte b) :=
  .modify fun _ => hP (.pushBytes ..) rfl rfl

theorem preserves_pullWordBits : ∀ k w, Preserves P (pullWordBits k w)
  | 0, _ => .pure _
  | k + 1, _ => .bind hP.preserves_pullBit fun _ => preserves_pullWordBits k _

/-! ## Bits of the coder -/

theorem preserves_bitPlusFollowOp (b : Bool) : Preserves P (bitPlusFollowOp b) :=
  .modify fun _ => hP (.pushBits ..) rfl rfl

theorem preserves_encDecideOp : Preserves P encDecideOp :=
  .get fun _ hs => .ite (hP.preserves_bitPlusFollowOp false) <|
    .ite (.bind (.set (hP (.registers ..) rfl rfl hs)) fun _ => hP.preserves_bitPlusFollowOp true) <|
      .bind (.set (hP (.registers ..) rfl rfl hs)) fun _ =>
        .ite (.raise _) (.pure _)

theorem preserves_encFlushOp : Preserves P encFlushOp := by
  unfold encFlushOp
  refine .loopDown (fun i => ?_) _
  exact .get fun _ _ => hP.preserves_bitPlusFollowOp _

/-! ## The move-to-front codec -/

theorem preserves_mtfInitOp : Preserves P mtfInitOp := .modify fun _ => hP .listInit rfl rfl

/-- Only an entry of the list comes to its front: the index check stands before the move. -/
theorem preserves_mtfRankOp (b : Byte) : Preserves P (mtfRankOp b) :=
  .get fun s hs => by
    by_cases h : s.yy.idxOf b < s.yy.length
    · have hb : s.yy[s.yy.idxOf b]? = some b := by simp [List.getElem?_eq_getElem h]
      exact .bind (.checkIndex _ _) fun _ =>
        .bind (.set (hP (.listMove _ b hb) rfl rfl hs)) fun _ => .pure _
    · exact .out_of_range h _

theorem preserves_mtfTakeOp (v : Nat) : Preserves P (mtfTakeOp v) :=
  .get fun s hs => by
    by_cases h : v < s.yy.length
    · have hb : s.yy[v]? = some (s.yy.getD v 0#8) := by simp [h]
      exact .bind (.checkIndex _ _) fun _ =>
        .bind (.set (hP (.listMove v _ hb) rfl rfl hs)) fun _ => .pure _
    · exact .out_of_range h _

theorem preserves_absorbOp (d : RunDigit) : Preserves P (absorbOp d) :=
  .bind (.modify fun _ => hP (.registers ..) rfl rfl) fun _ => .get fun _ _ =>
    .ite (.raise _) (.pure _)

theorem preserves_appendLl (b : Byte) : Preserves P (appendLl b) :=
  .get fun _ _ => .bind (hP.preserves_writeLl _ _) fun _ =>
    .modify fun _ => hP (.registers ..) rfl rfl

theorem preserves_flushRunOp : Preserves P flushRunOp :=
  .get fun _ _ => .ite (.pure _) <|
    .bind (.repeatTimes (hP.preserves_appendLl _) _) fun _ =>
      .modify fun _ => hP (.registers ..) rfl rfl

theorem preserves_storeValueOp (v : Nat) : Preserves P (storeValueOp v) := by
  unfold storeValueOp
  refine .get fun s hs => ?_
  refine .check (.raise _) ?_
  exact .bind (hP.preserves_mtfTakeOp v) fun _ => hP.preserves_appendLl _

theorem preserves_origwordReceived (w : Word) : Preserves P (origwordReceived w) :=
  .bind (.modify fun _ => hP (.registers ..) rfl rfl) fun _ => .pure _

theorem preserves_checkOrigptrOp (mag : Word) : Preserves P (checkOrigptrOp mag) :=
  .get fun _ _ => .ite (.raise _) (.modify fun _ => hP (.registers ..) rfl rfl)

/-! ## The block sorter -/

theorem preserves_shellSink (h : Nat) (v : Word) : ∀ fuel j, Preserves P (shellSink h v fuel j)
  | 0, _ => .defect _
  | fuel + 1, j => .ite (.bind (.readZptr _) fun _ =>
      .bind (.trivialGtOp _ _) fun _ =>
        .ite (.bind (hP.preserves_writeZptr _ _) fun _ => preserves_shellSink h v fuel (j - h))
          (.pure _)) (.pure _)

theorem preserves_shellStep (h i : Nat) : Preserves P (shellStep h i) :=
  .bind (.readZptr _) fun v => .bind (hP.preserves_shellSink h v _ _) fun _ =>
    hP.preserves_writeZptr _ _

theorem preserves_shellPasses (n : Nat) : ∀ increments, Preserves P (shellPasses n increments)
  | [] => .pure _
  | h :: rest => by
    rw [shellPasses]
    exact .check (.loopUp (hP.preserves_shellStep h) _ _) (preserves_shellPasses n rest)

theorem preserves_smallSortOp : Preserves P smallSortOp :=
  .get fun _ _ => .bind (.loopUp (fun _ => hP.preserves_writeZptr _ _) _ _) fun _ =>
    hP.preserves_shellPasses _ _

theorem preserves_buildPadOp : Preserves P buildPadOp :=
  .get fun _ _ => .loopUp (fun _ => .bind (.readBlock _) fun _ =>
    hP.preserves_writeBlock _ _) _ _

theorem preserves_exchangeZptr (i j : Nat) : Preserves P (exchangeZptr i j) :=
  .bind (.readZptr _) fun _ => .bind (.readZptr _) fun _ =>
    .bind (hP.preserves_writeZptr _ _) fun _ => hP.preserves_writeZptr _ _

theorem preserves_partitionLoop (p : Word) : ∀ fuel i j, Preserves P (partitionLoop p fuel i j)
  | 0, _, _ => .defect _
  | fuel + 1, _, _ => .get fun _ _ => .bind (.scanUp p _ _) fun i =>
      .bind (.scanDown p _) fun j =>
        .ite (.bind (hP.preserves_exchangeZptr i j) fun _ =>
          .ite (preserves_partitionLoop p fuel (i + 1) (j - 1)) (.pure _)) (.pure _)

theorem preserves_partitionOp (lo hi p : Word) : Preserves P (partitionOp lo hi p) :=
  hP.preserves_partitionLoop p _ _ _

theorem preserves_insertSink (lo : Nat) (v : Word) : ∀ j, Preserves P (insertSink lo v j)
  | 0 => .pure _
  | j + 1 => .ite (.bind (.readZptr _) fun _ =>
      .bind (.fullGtOp _ _) fun _ =>
        .ite (.bind (hP.preserves_writeZptr _ _) fun _ => preserves_insertSink lo v j)
          (.pure _)) (.pure _)

theorem preserves_insertStep (lo i : Nat) : Preserves P (insertStep lo i) :=
  .bind (.readZptr _) fun v => .bind (hP.preserves_insertSink lo v i) fun _ =>
    hP.preserves_writeZptr _ _

theorem preserves_insertionOp (lo hi : Word) : Preserves P (insertionOp lo hi) :=
  .loopUp (hP.preserves_insertStep _) _ _

theorem preserves_pushRange (first second : Int) : Preserves P (pushRange first second) :=
  .ite (.modify fun _ => hP (.registers ..) rfl rfl) (.pure _)

theorem preserves_qsortRange (lo hi : Word) : Preserves P (qsortRange lo hi) :=
  .ite (hP.preserves_insertionOp lo hi) <|
    .bind (.readZptr _) fun _ => .bind (.readZptr _) fun _ =>
      .bind (.readZptr _) fun _ => .bind (.median3Op _ _ _) fun _ =>
        .bind (hP.preserves_partitionOp _ _ _) fun _ =>
          .ite (.bind (hP.preserves_pushRange _ _) fun _ => hP.preserves_pushRange _ _)
            (.bind (hP.preserves_pushRange _ _) fun _ => hP.preserves_pushRange _ _)

theorem preserves_qsortLoop : ∀ fuel, Preserves P (qsortLoop fuel)
  | 0 => .defect _
  | fuel + 1 => .get fun s hs => by
      split
      next => exact .pure _
      next lo hi rest _ =>
        exact .bind (.set (hP (.registers ..) rfl rfl hs)) fun _ =>
          .bind (hP.preserves_qsortRange lo hi) fun _ => preserves_qsortLoop fuel

theorem preserves_qsortOp (lo hi : Word) : Preserves P (qsortOp lo hi) :=
  .bind (.modify fun _ => hP (.registers ..) rfl rfl) fun _ => .get fun _ _ =>
    hP.preserves_qsortLoop _

theorem preserves_bucketFillOp : Preserves P bucketFillOp := by
  unfold bucketFillOp
  refine .get fun s _ => .bind (.loopUp (fun j => ?clear) _ _) fun _ =>
    .bind (.loopUp (fun i => ?count) _ _) fun _ =>
    .bind (.loopUp (fun j => ?ends) _ _) fun _ =>
    .bind (hP.preserves_writeFtab _ _) fun _ => .loopDown (fun i => ?fill) _
  case clear => exact hP.preserves_writeFtab _ _
  case count =>
    exact .bind (.pairOp _) fun _ => .bind (.readFtab _) fun _ =>
      hP.preserves_writeFtab _ _
  case ends =>
    exact .bind (.readFtab _) fun _ => .bind (.readFtab _) fun _ =>
      hP.preserves_writeFtab _ _
  case fill =>
    exact .bind (.pairOp _) fun _ => .bind (.readFtab _) fun _ =>
      .bind (hP.preserves_writeFtab _ _) fun _ => hP.preserves_writeZptr _ _

theorem preserves_sortBucket (j : Nat) : Preserves P (sortBucket j) :=
  .bind (.readFtab _) fun _ => .bind (.readFtab _) fun _ =>
    .ite (hP.preserves_qsortOp _ _) (.pure _)

theorem preserves_bucketSortOp : Preserves P bucketSortOp := by
  unfold bucketSortOp
  refine .bind hP.preserves_buildPadOp fun _ => .bind hP.preserves_bucketFillOp fun _ =>
    .loopUp (fun j => ?_) _ _
  exact hP.preserves_sortBucket j

theorem preserves_findOrigptrFrom : ∀ fuel k, Preserves P (findOrigptrFrom k fuel)
  | 0, _ => .raise _
  | fuel + 1, k => .bind (.readZptr _) fun _ =>
      .ite (.modify fun _ => hP (.registers ..) rfl rfl) (preserves_findOrigptrFrom fuel (k + 1))

theorem preserves_findOrigptrOp : Preserves P findOrigptrOp :=
  .get fun _ _ => hP.preserves_findOrigptrFrom _ _

theorem preserves_sortOp : Preserves P sortOp := by
  unfold sortOp
  exact .get fun _ _ =>
    .ite (.bind hP.preserves_smallSortOp fun _ => hP.preserves_findOrigptrOp)
      (.bind hP.preserves_bucketSortOp fun _ => hP.preserves_findOrigptrOp)

theorem preserves_inverseCount (i : Nat) : Preserves P (inverseCount i) :=
  .bind (.readLl _) fun _ => .bind (.readCc _) fun _ =>
    .bind (hP.preserves_writeNext _ _) fun _ => hP.preserves_writeCc _ _

theorem preserves_inversePrefix : ∀ fuel v sum, Preserves P (inversePrefix v fuel sum)
  | 0, _, _ => .pure _
  | fuel + 1, v, _ => .bind (.readCc _) fun _ => .bind (hP.preserves_writeCc _ _) fun _ =>
      preserves_inversePrefix fuel (v + 1) _

theorem preserves_inverseWalk : ∀ j i, Preserves P (inverseWalk j i)
  | 0, _ => .pure _
  | j + 1, i => by
    rw [inverseWalk]
    refine .get fun s _ => ?_
    refine .check (.raise _) ?_
    exact .bind (.readLl _) fun _ => .bind (hP.preserves_writeBlock _ _) fun _ =>
      .bind (.readNext _) fun _ => .bind (.readCc _) fun _ =>
        preserves_inverseWalk j _

theorem preserves_inverseOp : Preserves P inverseOp := by
  unfold inverseOp
  refine .get fun s _ => .bind (.loopUp (fun v => ?_) _ _) fun _ =>
    .bind (.loopUp hP.preserves_inverseCount _ _) fun _ =>
      .bind (hP.preserves_inversePrefix _ _ _) fun _ => hP.preserves_inverseWalk _ _
  exact hP.preserves_writeCc _ _

/-! ## RLE1 and the spots -/

theorem preserves_appendBlock (b : Byte) : Preserves P (appendBlock b) :=
  .get fun _ _ => .bind (hP.preserves_writeBlock _ _) fun _ =>
    .modify fun _ => hP (.registers ..) rfl rfl

theorem preserves_emitShortOp (c : Byte) (r : Nat) : Preserves P (emitShortOp c r) :=
  .repeatTimes (hP.preserves_appendBlock c) r

theorem preserves_emitLongOp (c count : Byte) : Preserves P (emitLongOp c count) :=
  .bind (.repeatTimes (hP.preserves_appendBlock c) _) fun _ => hP.preserves_appendBlock count

theorem preserves_emitSentinelOp : Preserves P emitSentinelOp :=
  .bind (hP.preserves_appendBlock _) fun _ => .modify fun _ => hP (.registers ..) rfl rfl

theorem preserves_emitRunOp (c : Byte) (run : Nat) : Preserves P (emitRunOp c run) :=
  .ite (hP.preserves_emitShortOp _ _) (hP.preserves_emitLongOp _ _)

theorem preserves_firstOfRun : Preserves P firstOfRun :=
  .get fun _ hs => .ite
    (.bind (.set (hP (.registers ..) rfl rfl hs)) fun _ => .pure _) <|
    .bind hP.preserves_pullByte fun
      | some _ => .pure _
      | none => .bind (.modify fun _ => hP (.registers ..) rfl rfl) fun _ => .pure _

theorem preserves_extendRun (c : Byte) : ∀ room run, Preserves P (extendRun c room run)
  | 0, _ => .pure _
  | room + 1, run => .bind hP.preserves_pullByte fun
      | none => .bind (.modify fun _ => hP (.registers ..) rfl rfl) fun _ => .pure _
      | some _ => .ite (preserves_extendRun c room (run + 1)) <|
          .bind (.modify fun _ => hP (.registers ..) rfl rfl) fun _ => .pure _

theorem preserves_loadPass : Preserves P loadPass :=
  .get fun _ _ => .ite (.pure _) <|
    .bind hP.preserves_firstOfRun fun
      | none => .bind hP.preserves_emitSentinelOp fun _ => .pure _
      | some c => .bind (hP.preserves_extendRun c _ _) fun _ =>
          .bind (hP.preserves_emitRunOp c _) fun _ => .get fun _ _ =>
            .ite (.bind hP.preserves_emitSentinelOp fun _ => .pure _) (.pure _)

theorem preserves_loadLoop : ∀ fuel, Preserves P (loadLoop fuel)
  | 0 => .defect _
  | fuel + 1 => .bind hP.preserves_loadPass fun _ =>
      .ite (.pure _) (preserves_loadLoop fuel)

theorem preserves_loadOp : Preserves P loadOp :=
  .bind (.modify fun _ => hP (.registers ..) rfl rfl) fun _ => .get fun _ _ =>
    .bind (hP.preserves_loadLoop _) fun _ => .modify fun _ => hP (.registers ..) rfl rfl

theorem preserves_unloadLoop (m : Nat) :
    ∀ fuel i cnt prev, Preserves P (unloadLoop m fuel i cnt prev)
  | 0, _, _, _ => .pure _
  | fuel + 1, i, cnt, prev => by
    rw [unloadLoop]
    refine .ite (.pure _) (.bind (.readBlock _) fun b =>
      .bind (hP.preserves_pushByte b) fun _ => .ite ?_ (preserves_unloadLoop m fuel _ _ _))
    refine .check (.raise _) ?_
    exact .bind (.readBlock _) fun _ =>
      .bind (.repeatTimes (hP.preserves_pushByte _) _) fun _ => preserves_unloadLoop m fuel _ _ _

theorem preserves_unloadOp : Preserves P unloadOp := by
  unfold unloadOp
  refine .get fun s _ => .ite ?_ (hP.preserves_unloadLoop _ _ _ _ _)
  refine .bind (.checkIndex _ _) fun _ => .bind (.readBlock _) fun _ => ?_
  exact .check (.raise _) (hP.preserves_unloadLoop _ _ _ _ _)

theorem preserves_spotVisit (delta : SpotDelta) : Preserves P (spotVisit delta) :=
  .get fun _ _ => .bind (.readBlock _) fun _ =>
    .bind (hP.preserves_writeBlock _ _) fun _ => .modify fun _ => hP (.registers ..) rfl rfl

theorem preserves_spotLoop (delta : SpotDelta) : ∀ fuel, Preserves P (spotLoop delta fuel)
  | 0 => .defect _
  | fuel + 1 => .get fun _ _ =>
      .ite (.bind (hP.preserves_spotVisit delta) fun _ => preserves_spotLoop delta fuel)
        (.pure _)

theorem preserves_spotApplyOp (delta : SpotDelta) : Preserves P (spotApplyOp delta) :=
  .bind (.modify fun _ => hP (.registers ..) rfl rfl) fun _ => .get fun _ _ =>
    hP.preserves_spotLoop delta _

/-! ## Stream items and phases -/

theorem preserves_magicSent (lvl : BitVec 4) : Preserves P (magicSent lvl) :=
  hP.preserves_pushBits _

theorem preserves_magicReceived (w : Word) : Preserves P (magicReceived w) := by
  unfold magicReceived
  refine .check (.raise _) ?_
  refine .check (.raise _) ?_
  refine .check (.raise _) ?_
  exact .bind (.modify fun _ => hP (.registers ..) rfl rfl) fun _ => .get fun _ _ =>
    .ite (.raise _) (.pure _)

theorem preserves_unitReceived (c : Byte) (copies : Nat) : Preserves P (unitReceived c copies) :=
  .repeatTimes (hP.preserves_pushByte c) copies

end StableOutsideCoder

end Sys2Proof.Machine
end

/-! PROOFS. The family `41_model.md`, what every step keeps: an operation writes a model only as `model.init`,
`model.update` and `model.rescale` do, so all nine meet R146 wherever it ends or raises a fault. -/
section
namespace Sys2Proof.Machine

/-! ## What R146 speaks of -/

/-- R146 speaks of the models and the built parameters alone. -/
theorem modelsOk.congr {s t : State} (hs : modelsOk s) (hm : t.models = s.models)
    (hp : t.par = s.par) : modelsOk t := by
  obtain ⟨hpar, hlen, hall⟩ := hs
  have hat (m) : modelAt t m = modelAt s m := by rw [modelAt, hm, modelAt]
  refine ⟨hp ▸ hpar, hm ▸ hlen, fun m => ?_⟩
  rw [hat, hp]
  exact hall m

theorem stable_par (p : Params) : Stable (fun s => s.par = p) := by
  intro s t hu h
  cases hu <;> exact h

theorem stableOutsideCoder_modelsOk : StableOutsideCoder modelsOk := fun s _ hu hm _ hs =>
  hs.congr hm (stable_par s.par hu rfl)

/-! ## The model operations -/

theorem initAllModels_keeps_models : Preserves modelsOk initAllModels :=
  .modify fun _ hs => modelsOk_initialModels hs.params rfl

theorem modelInitOp_keeps_models (m : ModelId) : Preserves modelsOk (modelInitOp m) :=
  ⟨fun _ hs => hs.set (modelOk_initialModel hs.params m)⟩

theorem modelRescaleOp_keeps_models (m : ModelId) : Preserves modelsOk (modelRescaleOp m) :=
  ⟨fun _ hs => hs.set ((hs.model m).rescaled hs.params)⟩

/-- A symbol of the model is counted (R142); any other raises its fault with nothing written (R144). -/
theorem modelUpdateOp_keeps_models (m : ModelId) (sym : Nat) :
    Preserves modelsOk (modelUpdateOp m sym) := by
  refine ⟨fun s hs => ?_⟩
  by_cases hsym : sym < numSymbols m
  · have hm := hs.model m
    rw [modelUpdateOp_of_lt hsym]
    exact hs.set (modelOk_updatedModel hs.params hm (by rwa [hm.length_eq]))
  · rw [modelUpdateOp_of_not_lt hsym]
    exact hs

/-! ## The coder -/

theorem encInitOp_keeps_models : Preserves modelsOk encInitOp := .modify fun _ hs => hs

theorem encRenormLoop_keeps_models : ∀ fuel, Preserves modelsOk (encRenormLoop fuel)
  | 0 => .defect _
  | fuel + 1 => .get fun _ _ =>
      .ite (.bind stableOutsideCoder_modelsOk.preserves_encDecideOp fun _ =>
        .bind (.modify fun _ hs => hs) fun _ => encRenormLoop_keeps_models fuel) (.pure _)

theorem encRenormOp_keeps_models : Preserves modelsOk encRenormOp := encRenormLoop_keeps_models 32

theorem encNarrowOp_keeps_models (fm : FreqModel) (sym : Nat) :
    Preserves modelsOk (encNarrowOp fm sym) := by
  unfold encNarrowOp
  exact .check (.defect _) (.modify fun _ hs => hs)

theorem encodeOp_keeps_models (m : ModelId) (sym : Nat) : Preserves modelsOk (encodeOp m sym) :=
  .bind (.checkSymbol m sym) fun _ => .bind (.readModel m) fun fm =>
    .bind (encNarrowOp_keeps_models fm sym) fun _ => .bind encRenormOp_keeps_models fun _ =>
      modelUpdateOp_keeps_models m sym

theorem decStartOp_keeps_models : Preserves modelsOk decStartOp := by
  unfold decStartOp
  refine .bind (.modify fun _ hs => hs) fun _ => .loopUp (fun _ => ?_) _ _
  exact .bind stableOutsideCoder_modelsOk.preserves_pullBit fun _ => .modify fun _ hs => hs

theorem decRenormLoop_keeps_models : ∀ fuel, Preserves modelsOk (decRenormLoop fuel)
  | 0 => .defect _
  | fuel + 1 => .get fun _ _ =>
      .ite (.bind stableOutsideCoder_modelsOk.preserves_pullBit fun _ =>
        .bind (.modify fun _ hs => hs) fun _ => decRenormLoop_keeps_models fuel) (.pure _)

theorem decodeOp_keeps_models (m : ModelId) : Preserves modelsOk (decodeOp m) := by
  unfold decodeOp
  refine .bind (.readModel m) fun fm => .get fun s hs => ?_
  refine .check (.defect _) (.check (.defect _) ?_)
  split
  next => exact .raise _
  next sym low f _ =>
    have hnarrowed : modelsOk { s with
        d := s.d - s.r / fm.totFreq * low
        r := if low + f < fm.totFreq then s.r / fm.totFreq * f
          else s.r - s.r / fm.totFreq * low } := hs
    exact .bind (.set hnarrowed) fun _ =>
      .bind (.get fun _ _ => decRenormLoop_keeps_models _) fun _ =>
        .bind (modelUpdateOp_keeps_models m sym) fun _ => .pure _

theorem putU32Op_keeps_models (w : Word) : Preserves modelsOk (putU32Op w) :=
  have hput (b : Byte) : Preserves modelsOk (putU8Op b) := encodeOp_keeps_models bogusModel b.toNat
  .bind (hput _) fun _ => .bind (hput _) fun _ => .bind (hput _) fun _ => hput _

theorem getU8Op_keeps_models : Preserves modelsOk getU8Op :=
  .bind (decodeOp_keeps_models bogusModel) fun _ => .pure _

theorem getU32Op_keeps_models : Preserves modelsOk getU32Op :=
  have hget := getU8Op_keeps_models
  .bind hget fun _ => .bind hget fun _ => .bind hget fun _ => .bind hget fun _ => .pure _

/-! ## The move-to-front codec -/

theorem sendDigits_keeps_models : ∀ digits, Preserves modelsOk (sendDigits digits)
  | [] => .pure _
  | _ :: rest => .bind (encodeOp_keeps_models _ _) fun _ => sendDigits_keeps_models rest

theorem sendValOp_keeps_models (v : Nat) : Preserves modelsOk (sendValOp v) :=
  .ite (.outside _) <| .ite (encodeOp_keeps_models _ _) <|
    .bind (encodeOp_keeps_models _ _) fun _ => encodeOp_keeps_models _ _

theorem flushZpOp_keeps_models : Preserves modelsOk flushZpOp :=
  .get fun _ _ => .bind (sendDigits_keeps_models _) fun _ => .modify fun _ hs => hs

theorem encodePass_keeps_models (k : Nat) : Preserves modelsOk (encodePass k) :=
  .bind (.lastColumn k) fun _ =>
    .bind (stableOutsideCoder_modelsOk.preserves_mtfRankOp _) fun _ =>
      .ite (.modify fun _ hs => hs) <|
        .bind flushZpOp_keeps_models fun _ => sendValOp_keeps_models _

theorem encodeBlockOp_keeps_models : Preserves modelsOk encodeBlockOp :=
  .bind initAllModels_keeps_models fun _ => .bind (.modify fun _ hs => hs) fun _ =>
    .bind (.modify fun _ hs => hs) fun _ => .get fun _ _ =>
      .bind (putU32Op_keeps_models _) fun _ => .bind (.loopUp encodePass_keeps_models _ _) fun _ =>
        .bind flushZpOp_keeps_models fun _ => encodeOp_keeps_models _ _

theorem basisReceived_keeps_models (sym : Nat) : Preserves modelsOk (basisReceived sym) :=
  have hP := stableOutsideCoder_modelsOk
  .ite (.bind (hP.preserves_absorbOp _) fun _ => .pure _) <|
    .ite (.bind (hP.preserves_absorbOp _) fun _ => .pure _) <|
      .bind hP.preserves_flushRunOp fun _ => .ite (.pure _) <|
        .ite (.bind (hP.preserves_storeValueOp _) fun _ => .pure _) <|
          .bind (decodeOp_keeps_models _) fun _ => .bind (hP.preserves_storeValueOp _) fun _ =>
            .pure _

theorem decodeLoop_keeps_models : ∀ fuel, Preserves modelsOk (decodeLoop fuel)
  | 0 => .defect _
  | fuel + 1 => .bind (decodeOp_keeps_models _) fun _ =>
      .bind (basisReceived_keeps_models _) fun _ => .ite (.pure _) (decodeLoop_keeps_models fuel)

theorem decodeBlockOp_keeps_models : Preserves modelsOk decodeBlockOp :=
  have hP := stableOutsideCoder_modelsOk
  .bind initAllModels_keeps_models fun _ => .bind hP.preserves_mtfInitOp fun _ =>
    .bind (.modify fun _ hs => hs) fun _ => .bind getU32Op_keeps_models fun _ =>
      .bind (hP.preserves_origwordReceived _) fun _ => .get fun _ _ =>
        .bind (decodeLoop_keeps_models _) fun _ =>
          .bind (.modify fun _ hs => hs) fun _ => hP.preserves_checkOrigptrOp _

/-! ## Stream items and phases -/

theorem basisOp_keeps_models (sym : Nat) : Preserves modelsOk (basisOp sym) :=
  .sendOrReceive (encodeOp_keeps_models _ _) <|
    .bind (basisReceived_keeps_models sym) fun _ => .pure _

theorem headerCOp_keeps_models : Preserves modelsOk headerCOp := by
  unfold headerCOp
  refine .get fun s _ => .check (.raise _) ?_
  exact .bind stableOutsideCoder_modelsOk.preserves_crcInitOp fun _ =>
    .bind (.modify fun _ hs => hs) fun _ => .bind encInitOp_keeps_models fun _ =>
      .get fun _ _ => stableOutsideCoder_modelsOk.preserves_magicSent _

theorem trailerCOp_keeps_models : Preserves modelsOk trailerCOp :=
  .bind .crcFinalOp fun _ => .bind (putU32Op_keeps_models _) fun _ =>
    stableOutsideCoder_modelsOk.preserves_encFlushOp

theorem headerDOp_keeps_models : Preserves modelsOk headerDOp := by
  have hP := stableOutsideCoder_modelsOk
  unfold headerDOp
  exact .bind (hP.preserves_pullWordBits _ _) fun _ => .bind (hP.preserves_magicReceived _) fun _ =>
    .bind hP.preserves_crcInitOp fun _ => decStartOp_keeps_models

theorem trailerDOp_keeps_models : Preserves modelsOk trailerDOp :=
  .bind getU32Op_keeps_models fun _ => .crcReceived _

/-! ## Instructions -/

section Perform

variable {α : Type} {s t : State}

/-- Fault entry leaves the models (R352), and so does a wait. -/
theorem Preserves.modelsOk_of_perform {op : Seq α} (hop : Preserves modelsOk op) (hs : modelsOk s)
    (h : perform op s = .next t) : modelsOk t :=
  perform_keeps hop.keeps (fun _ _ hu => hu) hs h

theorem Preserves.modelsOk_of_performValue {g : α → List Word} {op : Seq α}
    (hop : Preserves modelsOk op) (hs : modelsOk s) (h : performValue g op s = .next t) :
    modelsOk t := by
  refine modelsOk_of_perform ?_ hs h
  exact .bind hop fun _ => .modify fun _ hu => hu

theorem modelsOk.nextPhase (hs : modelsOk s) : modelsOk (nextPhase s) :=
  hs.congr (nextPhase_models s) (nextPhase_par s)

theorem Preserves.modelsOk_of_performPhase {op : Seq Unit} (hop : Preserves modelsOk op)
    (hs : modelsOk s) (h : performPhase op s = .next t) : modelsOk t :=
  modelsOk_of_perform (.bind hop fun _ => .modify fun _ hu => hu.nextPhase) hs h

/-- With the same parameters the reset values meet R146 (log entry 4). -/
theorem modelsOk.clearedState (hs : modelsOk s) : modelsOk (clearedState s) :=
  modelsOk_initialModels hs.params rfl

theorem modelsOk.illegalCommand (hs : modelsOk s) : modelsOk (illegalCommand s) := by
  unfold Machine.illegalCommand
  split <;> exact hs

theorem execCompress_keeps_models {lvl : BitVec 4} (hs : modelsOk s)
    (h : execCompress lvl s = .next t) : modelsOk t := by
  unfold execCompress at h
  split at h
  · cases h
    exact hs
  · split at h <;> cases h
    · exact hs
    · exact hs.illegalCommand

theorem execDecompress_keeps_models (hs : modelsOk s) (h : execDecompress s = .next t) :
    modelsOk t := by
  unfold execDecompress at h
  split at h <;> cases h <;> exact hs

/-- Every instruction, in every state whose models meet R146. -/
theorem exec_keeps_models (i : Instr) (hs : modelsOk s) (h : exec i s = .next t) : modelsOk t := by
  have hP := stableOutsideCoder_modelsOk
  cases i with
  | nop | phaseIdle | runEnd => cases h; exact hs
  | compress _ => exact execCompress_keeps_models hs h
  | decompress => exact execDecompress_keeps_models hs h
  | abort => cases h; exact hs.clearedState
  | phaseHeaderC => exact headerCOp_keeps_models.modelsOk_of_performPhase hs h
  | phaseLoadRle => exact hP.preserves_loadOp.modelsOk_of_performPhase hs h
  | phaseSpot => exact (hP.preserves_spotApplyOp _).modelsOk_of_performPhase hs h
  | phaseSort => exact hP.preserves_sortOp.modelsOk_of_performPhase hs h
  | phaseEncode => exact encodeBlockOp_keeps_models.modelsOk_of_performPhase hs h
  | phaseTrailerC => exact trailerCOp_keeps_models.modelsOk_of_performPhase hs h
  | phaseHeaderD => exact headerDOp_keeps_models.modelsOk_of_performPhase hs h
  | phaseDecode => exact decodeBlockOp_keeps_models.modelsOk_of_performPhase hs h
  | phaseInvertSort => exact hP.preserves_inverseOp.modelsOk_of_performPhase hs h
  | phaseUnspot => exact (hP.preserves_spotApplyOp _).modelsOk_of_performPhase hs h
  | phaseUnrle => exact hP.preserves_unloadOp.modelsOk_of_performPhase hs h
  | phaseTrailerD => exact trailerDOp_keeps_models.modelsOk_of_performPhase hs h
  | faultBadMagic | faultTruncated | faultBlockOverrun | faultBadSentinel | faultCrcMismatch
  | faultBadOrigptr | faultBadRle1 | faultResource | faultModelSymbolRange | faultBitsRunaway
  | faultOrigptrNotFound | faultIllegalCmd => cases h; exact hs
  | basisRuna | basisRunb | basisOne | basis2To3 | basis4To7 | basis8To15 | basis16To31 | basis32To63
  | basis64To127 | basis128To255 | basisEob =>
    exact (basisOp_keeps_models _).modelsOk_of_perform hs h
  | streamMagic _ =>
    exact (Preserves.sendOrReceive (hP.preserves_magicSent _)
      (hP.preserves_magicReceived _)).modelsOk_of_perform hs h
  | streamOrigword w =>
    refine Preserves.modelsOk_of_perform ?_ hs h
    exact .sendOrReceive (putU32Op_keeps_models w) <|
      .bind (hP.preserves_origwordReceived w) fun _ => .modify fun _ hu => hu
  | streamCrc32 w =>
    exact (Preserves.sendOrReceive (putU32Op_keeps_models w)
      (.crcReceived w)).modelsOk_of_perform hs h
  | rle1Short c _ =>
    exact (Preserves.sendOrReceive (hP.preserves_emitShortOp c _)
      (hP.preserves_unitReceived c _)).modelsOk_of_perform hs h
  | rle1Long c count =>
    exact (Preserves.sendOrReceive (hP.preserves_emitLongOp c count)
      (hP.preserves_unitReceived c _)).modelsOk_of_perform hs h
  | rle1Sentinel =>
    exact (Preserves.sendOrReceive hP.preserves_emitSentinelOp (.pure _)).modelsOk_of_perform hs h
  | crcInit => exact hP.preserves_crcInitOp.modelsOk_of_perform hs h
  | crcUpdate _ => exact (hP.preserves_crcUpdateOp _).modelsOk_of_perform hs h
  | crcFinal => exact Preserves.crcFinalOp.modelsOk_of_performValue (g := fun w => [w]) hs h
  | modelInit m => exact (modelInitOp_keeps_models m).modelsOk_of_perform hs h
  | modelUpdate m sym => exact (modelUpdateOp_keeps_models m sym).modelsOk_of_perform hs h
  | modelRescale m => exact (modelRescaleOp_keeps_models m).modelsOk_of_perform hs h
  | acEncInit => exact encInitOp_keeps_models.modelsOk_of_perform hs h
  | acEncode m sym => exact (encodeOp_keeps_models m sym).modelsOk_of_perform hs h
  | acBitPlusFollow b => exact (hP.preserves_bitPlusFollowOp b).modelsOk_of_perform hs h
  | acEncRenorm => exact encRenormOp_keeps_models.modelsOk_of_perform hs h
  | acEncFlush => exact hP.preserves_encFlushOp.modelsOk_of_perform hs h
  | acDecStart => exact decStartOp_keeps_models.modelsOk_of_perform hs h
  | acDecode m => exact (decodeOp_keeps_models m).modelsOk_of_performValue hs h
  | acPutU8 b => exact (encodeOp_keeps_models _ b.toNat).modelsOk_of_perform hs h
  | acPutU32 w => exact (putU32Op_keeps_models w).modelsOk_of_perform hs h
  | acGetU8 => exact getU8Op_keeps_models.modelsOk_of_performValue hs h
  | acGetU32 => exact getU32Op_keeps_models.modelsOk_of_performValue hs h
  | mtfInit => exact hP.preserves_mtfInitOp.modelsOk_of_perform hs h
  | mtfRank b => exact (hP.preserves_mtfRankOp b).modelsOk_of_performValue hs h
  | mtfTake v => exact (hP.preserves_mtfTakeOp _).modelsOk_of_performValue hs h
  | mtfSendZeroes k => exact (sendDigits_keeps_models _).modelsOk_of_perform hs h
  | mtfSendVal v => exact (sendValOp_keeps_models _).modelsOk_of_perform hs h
  | mtfSendEob => exact (encodeOp_keeps_models _ _).modelsOk_of_perform hs h
  | mtfEncodeBlock => exact encodeBlockOp_keeps_models.modelsOk_of_perform hs h
  | mtfDecodeBlock => exact decodeBlockOp_keeps_models.modelsOk_of_perform hs h
  | mtfAbsorb d => exact (hP.preserves_absorbOp d).modelsOk_of_perform hs h
  | mtfCheckOrigptr mag => exact (hP.preserves_checkOrigptrOp mag).modelsOk_of_perform hs h
  | bwtSort => exact hP.preserves_sortOp.modelsOk_of_perform hs h
  | bwtBuildPad => exact hP.preserves_buildPadOp.modelsOk_of_perform hs h
  | bwtSmallSort => exact hP.preserves_smallSortOp.modelsOk_of_perform hs h
  | bwtTrivialGt a b => exact (Preserves.trivialGtOp a b).modelsOk_of_performValue hs h
  | bwtFullGt a b => exact (Preserves.fullGtOp a b).modelsOk_of_performValue hs h
  | bwtBucketSort => exact hP.preserves_bucketSortOp.modelsOk_of_perform hs h
  | bwtQsort lo hi => exact (hP.preserves_qsortOp lo hi).modelsOk_of_perform hs h
  | bwtMedian3 a b c => exact (Preserves.median3Op a b c).modelsOk_of_performValue hs h
  | bwtPartition lo hi p => exact (hP.preserves_partitionOp lo hi p).modelsOk_of_performValue hs h
  | bwtInsertion lo hi => exact (hP.preserves_insertionOp lo hi).modelsOk_of_perform hs h
  | bwtFindOrigptr => exact hP.preserves_findOrigptrOp.modelsOk_of_perform hs h
  | bwtInverse => exact hP.preserves_inverseOp.modelsOk_of_perform hs h
  | rle1Load => exact hP.preserves_loadOp.modelsOk_of_perform hs h
  | rle1Unload => exact hP.preserves_unloadOp.modelsOk_of_perform hs h
  | spotApply delta => exact (hP.preserves_spotApplyOp delta).modelsOk_of_perform hs h
  | faultEntry f => cases h; exact hs
  | phaseNext => cases h; exact hs.nextPhase

/-! ## One step -/

theorem sequencerStep_keeps_models (hs : modelsOk s) (h : sequencerStep s = .next t) :
    modelsOk t := by
  unfold sequencerStep at h
  split at h
  · cases h
    exact hs
  · unfold performCode at h
    split at h
    next i _ => exact exec_keeps_models i (s := { s with latch := none }) hs h
    · cases h

theorem writeCmd_keeps_models {w : Word} (hs : modelsOk s) (h : writeCmd w s = .next t) :
    modelsOk t := by
  unfold writeCmd at h
  split at h
  next i _ => exact exec_keeps_models i hs h
  · cases h
    exact hs.illegalCommand

theorem abortDuring_keeps_models {k : Nat} (hs : modelsOk s) (h : abortDuring k s = .next t) :
    modelsOk t := by
  unfold abortDuring at h
  split at h <;> cases h
  exact modelsOk.clearedState hs

/-- Every act of the host and the environment: those that perform nothing leave the models. -/
theorem hostAct_keeps_models {e : HostEvent} {rest : List HostEvent} (hs : modelsOk s)
    (h : hostAct e s { s with host := rest } = .next t) : modelsOk t := by
  have hrest : modelsOk { s with host := rest } := hs
  cases e with
  | write reg w =>
    simp only [hostAct, hostWrite] at h
    split at h
    · exact writeCmd_keeps_models hrest h
    · cases h
      exact hs
  | abortAfter k => exact abortDuring_keeps_models hrest h
  | read reg =>
    cases h
    rw [hostRead_frame]
    exact hs
  | feedBytes | feedBits | dropInput => cases h; exact hs
  | wait =>
    simp only [hostAct] at h
    split at h
    · exact sequencerStep_keeps_models hs h
    · cases h
      exact hs
  | gap => exact sequencerStep_keeps_models hrest h
  | reset => cases h; exact modelsOk.clearedState hs

end Perform

/-- Settles O18: the models change only by their own operations, and an ABORT and a reset start them anew. -/
theorem stepKeepsModels : Obligations.StepKeepsModels := by
  intro s t hs h
  unfold step stepOnce at h
  split at h
  · exact sequencerStep_keeps_models hs h
  · exact hostAct_keeps_models hs h

end Sys2Proof.Machine
end

/-! PROOFS. The family `42_arith_coder.md`, what every step keeps of R (O19): where an operation ends, R is back
in `QUARTER < R <= HALF`. A raise may leave it anywhere, so the rule is about normal ends alone. -/
section
namespace Sys2Proof.Machine

/-! ## What an operation leaves where it ends -/

section Ends

variable {α β : Type} {P : State → Prop}

/-- From a state with `P`, `op` ends, where it does, in a state with `P`; a stop may leave `P` broken. -/
structure EndsIn (P : State → Prop) (op : Seq α) : Prop where
  ends : ∀ {s t a}, P s → op s = .ok a t → P t

theorem EndsIn.of_preserves {op : Seq α} (h : Preserves P op) : EndsIn P op :=
  ⟨fun {s _ _} hs ht => by
    have hk := h.keeps s hs
    rwa [ht] at hk⟩

theorem EndsIn.of_safe {R : State → Prop} {op : Seq α} {Q : α → State → Prop}
    (h : ∀ s, P s → Safe R s op Q) (hQ : ∀ a t, Q a t → P t) : EndsIn P op :=
  ⟨fun {s _ _} hs ht => by
    obtain ⟨hr⟩ := h s hs
    rw [ht] at hr
    exact hQ _ _ hr⟩

theorem EndsIn.pure (a : α) : EndsIn P (pure a) := .of_preserves (.pure a)

theorem EndsIn.raise (f : FaultCode) : EndsIn P (raise f : Seq α) := .of_preserves (.raise f)

theorem EndsIn.modify {f : State → State} (h : ∀ s, P s → P (f s)) : EndsIn P (modify f : Seq Unit) :=
  .of_preserves (.modify h)

theorem EndsIn.bind {x : Seq α} {f : α → Seq β} (hx : EndsIn P x) (hf : ∀ a, EndsIn P (f a)) :
    EndsIn P (x >>= f) :=
  ⟨fun hs ht => by
    obtain ⟨a, u, hu, ht⟩ := (seq_bind_ok_iff ..).1 ht
    exact (hf a).ends (hx.ends hs hu) ht⟩

theorem EndsIn.get {f : State → Seq β} (h : ∀ s, EndsIn P (f s)) :
    EndsIn P ((get : Seq State) >>= f) :=
  .bind (.of_preserves ⟨keeps_get P⟩) h

theorem EndsIn.ite {c : Prop} [Decidable c] {x y : Seq α} (hx : EndsIn P x) (hy : EndsIn P y) :
    EndsIn P (if c then x else y) := by
  split <;> assumption

/-- A check in the middle of an operation: `if c then x; rest`. -/
theorem EndsIn.check {c : Prop} [Decidable c] {x : Seq Unit} {f : Unit → Seq β} (hx : EndsIn P x)
    (hf : EndsIn P (f ())) : EndsIn P (if c then x >>= f else f ()) :=
  .ite (.bind hx fun _ => hf) hf

theorem EndsIn.loopUp {body : Nat → Seq Unit} (h : ∀ i, EndsIn P (body i)) :
    ∀ k i, EndsIn P (loopUp body i k)
  | 0, _ => .pure ()
  | k + 1, i => .bind (h i) fun _ => EndsIn.loopUp h k (i + 1)

theorem EndsIn.sendOrReceive {x y : Seq Unit} (hx : EndsIn P x) (hy : EndsIn P y) :
    EndsIn P (sendOrReceive x y) :=
  .get fun _ => .ite hy hx

end Ends

/-! ## The coder's range where an operation ends

`CoderHeld` is kept by what leaves the coder and the models alone, and the coder's own operations end in it. -/

/-- R146 and R157 (a). -/
def CoderHeld : State → Prop := CoderReady fun _ => True

theorem CoderHeld.models {s : State} (h : CoderHeld s) : modelsOk s := CoderReady.models h

theorem coderFree_true : CoderFree fun _ => True := fun _ _ _ _ _ _ _ _ h => h

theorem coderHeld_iff {s : State} : CoderHeld s ↔ modelsOk s ∧ rangeOk s :=
  ⟨fun h => ⟨h.models, h.range⟩, fun ⟨hm, hr⟩ => ⟨⟨hm, trivial⟩, hr⟩⟩

theorem stableOutsideCoder_coderHeld : StableOutsideCoder CoderHeld := by
  intro s t hu hm hr hs
  rw [coderHeld_iff] at hs ⊢
  obtain ⟨hmodels, hrange⟩ := hs
  refine ⟨stableOutsideCoder_modelsOk hu hm hr hmodels, ?_⟩
  rw [rangeOk, hr]
  exact hrange



theorem encodeOp_ends (m : ModelId) (sym : Nat) : EndsIn CoderHeld (encodeOp m sym) :=
  .of_safe (fun _ hs => .encodeOp coderFree_true (fun _ h => h) m sym hs) fun _ _ h => h

theorem decodeOp_ends (m : ModelId) : EndsIn CoderHeld (decodeOp m) :=
  .of_safe (fun _ hs => .decodeOp coderFree_true (fun _ h => h) m hs) fun _ _ ⟨h, _⟩ => h

theorem decStartOp_ends : EndsIn CoderHeld decStartOp :=
  .of_safe (fun _ hs => .decStartOp coderFree_true (fun _ h => h) hs.ready) fun _ _ h => h

theorem putU32Op_ends (w : Word) : EndsIn CoderHeld (putU32Op w) :=
  .of_safe (fun _ hs => .putU32Op coderFree_true (fun _ h => h) w hs) fun _ _ h => h

theorem getU32Op_ends : EndsIn CoderHeld getU32Op :=
  .of_safe (fun _ hs => .getU32Op coderFree_true (fun _ h => h) hs) fun _ _ h => h

theorem initAllModels_ends : EndsIn CoderHeld initAllModels :=
  .modify fun _ hs => coderHeld_iff.2 ⟨modelsOk_initialModels hs.models.params rfl, hs.range⟩

/-! ## The move-to-front codec -/

theorem sendDigits_ends : ∀ digits, EndsIn CoderHeld (sendDigits digits)
  | [] => .pure _
  | _ :: rest => .bind (encodeOp_ends _ _) fun _ => sendDigits_ends rest

theorem sendValOp_ends (v : Nat) : EndsIn CoderHeld (sendValOp v) :=
  .ite (.of_preserves (.outside _)) <| .ite (encodeOp_ends _ _) <|
    .bind (encodeOp_ends _ _) fun _ => encodeOp_ends _ _

theorem flushZpOp_ends : EndsIn CoderHeld flushZpOp :=
  .get fun _ => .bind (sendDigits_ends _) fun _ => .modify fun _ hs => hs

theorem encodePass_ends (k : Nat) : EndsIn CoderHeld (encodePass k) :=
  .bind (.of_preserves (.lastColumn k)) fun _ =>
    .bind (.of_preserves (stableOutsideCoder_coderHeld.preserves_mtfRankOp _)) fun _ =>
      .ite (.modify fun _ hs => hs) <| .bind flushZpOp_ends fun _ => sendValOp_ends _

theorem encodeBlockOp_ends : EndsIn CoderHeld encodeBlockOp :=
  .bind initAllModels_ends fun _ => .bind (.modify fun _ hs => hs) fun _ =>
    .bind (.modify fun _ hs => hs) fun _ => .get fun _ =>
      .bind (putU32Op_ends _) fun _ => .bind (.loopUp encodePass_ends _ _) fun _ =>
        .bind flushZpOp_ends fun _ => encodeOp_ends _ _

theorem basisReceived_ends (sym : Nat) : EndsIn CoderHeld (basisReceived sym) :=
  have hP := stableOutsideCoder_coderHeld
  have habsorb (d : RunDigit) : EndsIn CoderHeld (absorbOp d) := .of_preserves (hP.preserves_absorbOp d)
  have hstore (v : Nat) : EndsIn CoderHeld (storeValueOp v) := .of_preserves (hP.preserves_storeValueOp v)
  .ite (.bind (habsorb _) fun _ => .pure _) <| .ite (.bind (habsorb _) fun _ => .pure _) <|
    .bind (.of_preserves hP.preserves_flushRunOp) fun _ => .ite (.pure _) <|
      .ite (.bind (hstore _) fun _ => .pure _) <|
        .bind (decodeOp_ends _) fun _ => .bind (hstore _) fun _ => .pure _

theorem decodeLoop_ends : ∀ fuel, EndsIn CoderHeld (decodeLoop fuel)
  | 0 => .of_preserves (.defect _)
  | fuel + 1 => .bind (decodeOp_ends _) fun _ => .bind (basisReceived_ends _) fun _ =>
      .ite (.pure _) (decodeLoop_ends fuel)

theorem decodeBlockOp_ends : EndsIn CoderHeld decodeBlockOp :=
  have hP := stableOutsideCoder_coderHeld
  .bind initAllModels_ends fun _ => .bind (.modify fun _ hs => hs) fun _ =>
    .bind (.modify fun _ hs => hs) fun _ => .bind getU32Op_ends fun _ =>
      .bind (.of_preserves (hP.preserves_origwordReceived _)) fun _ => .get fun _ =>
        .bind (decodeLoop_ends _) fun _ => .bind (.modify fun _ hs => hs) fun _ =>
          .of_preserves (hP.preserves_checkOrigptrOp _)

/-! ## Stream items and phases -/

theorem basisOp_ends (sym : Nat) : EndsIn CoderHeld (basisOp sym) :=
  .sendOrReceive (encodeOp_ends _ _) <| .bind (basisReceived_ends sym) fun _ => .pure _

theorem headerCOp_ends : EndsIn CoderHeld headerCOp := by
  have hP := stableOutsideCoder_coderHeld
  unfold headerCOp
  refine .get fun s => .check (.raise _) ?_
  exact .bind (.of_preserves hP.preserves_crcInitOp) fun _ => .bind (.modify fun _ hs => hs) fun _ =>
    .bind (.modify fun _ hs => coderHeld_iff.2 ⟨hs.models, half_in_range⟩) fun _ =>
      .get fun _ => .of_preserves (hP.preserves_magicSent _)

theorem trailerCOp_ends : EndsIn CoderHeld trailerCOp :=
  .bind (.of_preserves .crcFinalOp) fun _ => .bind (putU32Op_ends _) fun _ =>
    .of_preserves stableOutsideCoder_coderHeld.preserves_encFlushOp

theorem headerDOp_ends : EndsIn CoderHeld headerDOp := by
  have hP := stableOutsideCoder_coderHeld
  unfold headerDOp
  exact .bind (.of_preserves (hP.preserves_pullWordBits _ _)) fun _ =>
    .bind (.of_preserves (hP.preserves_magicReceived _)) fun _ =>
      .bind (.of_preserves hP.preserves_crcInitOp) fun _ => decStartOp_ends

theorem trailerDOp_ends : EndsIn CoderHeld trailerDOp :=
  .bind getU32Op_ends fun _ => .of_preserves (.crcReceived _)

theorem phaseOp_ends : ∀ p, EndsIn CoderHeld (phaseOp p)
  | .idle => .pure ()
  | .headerC => headerCOp_ends
  | .loadRle => .of_preserves stableOutsideCoder_coderHeld.preserves_loadOp
  | .spot => .of_preserves (stableOutsideCoder_coderHeld.preserves_spotApplyOp .plus)
  | .sort => .of_preserves stableOutsideCoder_coderHeld.preserves_sortOp
  | .encode => encodeBlockOp_ends
  | .trailerC => trailerCOp_ends
  | .headerD => headerDOp_ends
  | .decode => decodeBlockOp_ends
  | .invertSort => .of_preserves stableOutsideCoder_coderHeld.preserves_inverseOp
  | .unspot => .of_preserves (stableOutsideCoder_coderHeld.preserves_spotApplyOp .minus)
  | .unrle => .of_preserves stableOutsideCoder_coderHeld.preserves_unloadOp
  | .trailerD => trailerDOp_ends

/-! ## Coded items -/

section Perform

variable {s t : State}

/-- A wait leaves R, and a raise leaves the fault. -/
theorem EndsIn.rangeOk_of_perform {α : Type} {op : Seq α} (hop : EndsIn CoderHeld op)
    (hs : CoderHeld s) (h : perform op s = .next t) (ht : t.fault = false) : rangeOk t := by
  rcases (perform_next_iff op s t).1 h with ⟨a, ha⟩ | ⟨f, u, -, rfl⟩ | ⟨u, -, rfl⟩
  · exact (hop.ends hs ha).range
  · cases ht
  · exact hs.range

theorem CoderHeld.nextPhase (hs : CoderHeld s) : CoderHeld (nextPhase s) := by
  rw [coderHeld_iff] at hs ⊢
  obtain ⟨hmodels, hrange⟩ := hs
  exact ⟨hmodels.nextPhase, by rwa [rangeOk, nextPhase_r]⟩

theorem phase_keeps_range (p : Phase) (hs : CoderHeld s) (h : exec (phaseInstr p) s = .next t)
    (ht : t.fault = false) : rangeOk t := by
  by_cases hp : p = .idle
  · subst hp
    cases h
    exact hs.range
  · rw [exec_phaseInstr hp] at h
    have hop : EndsIn CoderHeld (do phaseOp p; modify nextPhase) :=
      .bind (phaseOp_ends p) fun _ => .modify fun _ hu => hu.nextPhase
    exact hop.rangeOk_of_perform hs h ht

/-- No command but ABORT writes R (R296). -/
theorem illegalCommand_r (s : State) : (illegalCommand s).r = s.r := by
  unfold illegalCommand
  split <;> rfl

theorem execCompress_r {lvl : BitVec 4} (h : execCompress lvl s = .next t) : t.r = s.r := by
  unfold execCompress at h
  split at h
  · cases h
    rfl
  · split at h <;> cases h
    · rfl
    · exact illegalCommand_r s

theorem execDecompress_r (h : execDecompress s = .next t) : t.r = s.r := by
  unfold execDecompress at h
  split at h <;> cases h <;> rfl

theorem rangeOk_of_r_eq (hs : rangeOk s) (hr : t.r = s.r) : rangeOk t := by rwa [rangeOk, hr]

/-- Every coded item, performed from a range that R157 (a) allows: the sequencer operations have none (R108). -/
theorem exec_coded_keeps_range {i : Instr} {c : Code} (hc : encode i = some c) 
    (hs : CoderHeld s) (h : exec i s = .next t) (ht : t.fault = false) : rangeOk t := by
  have hP := stableOutsideCoder_coderHeld
  have hops {x y : Seq Unit} (hx : EndsIn CoderHeld x) (hy : EndsIn CoderHeld y)
      (h : perform (sendOrReceive x y) s = .next t) : rangeOk t :=
    (EndsIn.sendOrReceive hx hy).rangeOk_of_perform hs h ht
  have hkept {x y : Seq Unit} (hx : Preserves CoderHeld x) (hy : Preserves CoderHeld y) :=
    hops (.of_preserves hx) (.of_preserves hy)
  cases i with
  | nop => cases h; exact hs.range
  | compress lvl =>
    exact rangeOk_of_r_eq hs.range (execCompress_r h)
  | decompress => exact rangeOk_of_r_eq hs.range (execDecompress_r h)
  | abort => cases h; exact half_in_range
  | phaseIdle => exact phase_keeps_range .idle hs h ht
  | phaseHeaderC => exact phase_keeps_range .headerC hs h ht
  | phaseLoadRle => exact phase_keeps_range .loadRle hs h ht
  | phaseSpot => exact phase_keeps_range .spot hs h ht
  | phaseSort => exact phase_keeps_range .sort hs h ht
  | phaseEncode => exact phase_keeps_range .encode hs h ht
  | phaseTrailerC => exact phase_keeps_range .trailerC hs h ht
  | phaseHeaderD => exact phase_keeps_range .headerD hs h ht
  | phaseDecode => exact phase_keeps_range .decode hs h ht
  | phaseInvertSort => exact phase_keeps_range .invertSort hs h ht
  | phaseUnspot => exact phase_keeps_range .unspot hs h ht
  | phaseUnrle => exact phase_keeps_range .unrle hs h ht
  | phaseTrailerD => exact phase_keeps_range .trailerD hs h ht
  | faultBadMagic | faultTruncated | faultBlockOverrun | faultBadSentinel | faultCrcMismatch
  | faultBadOrigptr | faultBadRle1 | faultResource | faultModelSymbolRange | faultBitsRunaway
  | faultOrigptrNotFound | faultIllegalCmd => cases h; cases ht
  | basisRuna | basisRunb | basisOne | basis2To3 | basis4To7 | basis8To15 | basis16To31 | basis32To63
  | basis64To127 | basis128To255 | basisEob => exact (basisOp_ends _).rangeOk_of_perform hs h ht
  | streamMagic _ => exact hkept (hP.preserves_magicSent _) (hP.preserves_magicReceived _) h
  | streamOrigword w =>
    refine EndsIn.rangeOk_of_perform (.sendOrReceive (putU32Op_ends w) ?_) hs h ht
    exact .bind (.of_preserves (hP.preserves_origwordReceived w)) fun _ => .modify fun _ hu => hu
  | streamCrc32 w => exact hops (putU32Op_ends w) (.of_preserves (.crcReceived w)) h
  | rle1Short c _ => exact hkept (hP.preserves_emitShortOp c _) (hP.preserves_unitReceived c _) h
  | rle1Long c n => exact hkept (hP.preserves_emitLongOp c n) (hP.preserves_unitReceived c _) h
  | rle1Sentinel => exact hkept hP.preserves_emitSentinelOp (.pure _) h
  | _ => cases hc

/-! ## One step -/

/-- `t` comes from `s` by what the step of a core without a fault does: nothing to the core; a coded item
performed; a fault taken; the return to the reset values. -/
def CodedStep (s t : State) : Prop :=
  SameCore s t ∨ (∃ u i c, SameCore s u ∧ encode i = some c ∧ exec i u = .next t) ∨ t.fault = true ∨
    ∃ u, t = clearedState u

theorem sameCore_refl (s : State) : SameCore s s := rfl

theorem sameCore_host (s : State) (rest : List HostEvent) : SameCore s { s with host := rest } := rfl

theorem codedStep_sequencerStep (hst : SameCore s t) {u : State} (h : sequencerStep t = .next u) :
    CodedStep s u := by
  unfold sequencerStep at h
  split at h
  · cases h
    exact .inl hst
  · unfold performCode at h
    split at h
    next i hi =>
      refine .inr (.inl ⟨_, i, _, ?_, (decode_ok_iff.1 hi).1, h⟩)
      rw [hst]
      rfl
    · cases h

theorem codedStep_writeCmd {w : Word} (hst : SameCore s t) {u : State}
    (h : writeCmd w t = .next u) : CodedStep s u := by
  unfold writeCmd at h
  split at h
  next i hi => exact .inr (.inl ⟨t, i, _, hst, (decode_ok_iff.1 hi).1, h⟩)
  · cases h
    unfold illegalCommand
    split
    · exact .inl hst
    · exact .inr (.inr (.inl rfl))

/-- One step of a core, by the next act of the host or the environment. -/
theorem step_coded (h : step s = .next t) : CodedStep s t := by
  unfold step stepOnce at h
  split at h
  · exact codedStep_sequencerStep (sameCore_refl s) h
  next e rest he =>
    cases e with
    | write reg w =>
      simp only [hostAct, hostWrite] at h
      split at h
      · exact codedStep_writeCmd (sameCore_host s rest) h
      · cases h
        exact .inl rfl
    | abortAfter k => exact .inr (.inr (.inr (abortDuring_cleared h)))
    | read reg =>
      cases h
      exact .inl (sameCore_hostRead ..)
    | feedBytes | feedBits | dropInput => cases h; exact .inl rfl
    | wait =>
      simp only [hostAct] at h
      split at h
      · exact codedStep_sequencerStep (sameCore_refl s) h
      · cases h
        exact .inl rfl
    | gap => exact codedStep_sequencerStep (sameCore_host s rest) h
    | reset => cases h; exact .inr (.inr (.inr ⟨_, rfl⟩))

end Perform

/-- Settles O19: a faulted core keeps FAULT or returns to the reset values; any other performs a coded item
from a range that R157 (a) allows. -/
theorem stepKeepsCoderRange : Obligations.StepKeepsCoderRange := by
  intro s t hmodels hrange h ht
  have hkeep : rangeOk s → rangeOk t := by
    intro hr
    rcases step_coded h with hst | ⟨u, i, c, hsu, hc, hexec⟩ | hft | ⟨u, rfl⟩
    · rw [hst]
      exact hr
    · have hu : CoderHeld u := by
        rw [hsu]
        exact coderHeld_iff.2 ⟨hmodels, hr⟩
      exact exec_coded_keeps_range hc hu hexec ht
    · rw [hft] at ht
      cases ht
    · exact half_in_range
  cases hf : s.fault with
  | false => exact hkeep (hrange hf)
  | true =>
    rcases step_cases h with ⟨u, hp, hu⟩ | ⟨-, u, rfl⟩
    · have hfu : u.fault = true := by
        rw [hu]
        exact hf
      rw [(hp.of_fault hfu).keeps (stable_fault true) hfu] at ht
      cases ht
    · exact half_in_range

end Sys2Proof.Machine
end

/-! PROOFS. The family `42_arith_coder.md`, bits as numbers, and the operations of the encoder and the decoder
that move bits alone (O46, O52). -/
section
namespace Sys2Proof.Machine

/-- A part whose result is known, and what follows it. -/
theorem seq_bind_of_ok {α β : Type} {x : Seq α} {s t : State} {a : α} (h : x s = .ok a t)
    (f : α → Seq β) : (x >>= f) s = f a t := by
  rw [seq_bind, h]

/-! ## Lists of bits as binary numbers -/

theorem foldl_bits (bits : List Bool) (n : Nat) :
    bits.foldl (fun n b => 2 * n + b.toNat) n = n * 2 ^ bits.length + bitsValue bits := by
  induction bits generalizing n with
  | nil => simp [bitsValue]
  | cons b bits ih =>
    simp only [bitsValue, List.foldl_cons, List.length_cons, pow_succ] at ih ⊢
    rw [ih, ih (2 * 0 + b.toNat)]
    ring

theorem bitsValue_append (xs ys : List Bool) :
    bitsValue (xs ++ ys) = bitsValue xs * 2 ^ ys.length + bitsValue ys := by
  rw [bitsValue, List.foldl_append, foldl_bits]
  rfl

theorem bitsValue_cons (b : Bool) (bits : List Bool) :
    bitsValue (b :: bits) = b.toNat * 2 ^ bits.length + bitsValue bits := by
  rw [bitsValue, List.foldl_cons, foldl_bits, Nat.mul_zero, Nat.zero_add]

@[simp] theorem bitsValue_nil : bitsValue [] = 0 := rfl

@[simp] theorem bitsValue_singleton (b : Bool) : bitsValue [b] = b.toNat := Nat.zero_add _

theorem bitsValue_lt (bits : List Bool) : bitsValue bits < 2 ^ bits.length := by
  induction bits with
  | nil => exact Nat.one_pos
  | cons b bits ih =>
    have hb := b.toNat_le
    rw [bitsValue_cons, List.length_cons, pow_succ]
    nlinarith

@[simp] theorem bitsValue_replicate_false (k : Nat) : bitsValue (List.replicate k false) = 0 := by
  induction k with
  | zero => rfl
  | succ k ih => rw [List.replicate_succ, bitsValue_cons, ih]; simp

/-- `k` one bits, written without a subtraction. -/
theorem bitsValue_replicate_true (k : Nat) : bitsValue (List.replicate k true) + 1 = 2 ^ k := by
  induction k with
  | zero => rfl
  | succ k ih =>
    rw [List.replicate_succ, bitsValue_cons, List.length_replicate, Bool.toNat_true, pow_succ]
    omega

/-- The low `k` bits of a word, the most significant first. -/
def lowBits (w : Word) (k : Nat) : List Bool := (List.range k).map fun i => w.getLsbD (k - 1 - i)

theorem lowBits_succ (w : Word) (k : Nat) : lowBits w (k + 1) = w.getLsbD k :: lowBits w k := by
  simp only [lowBits, List.range_succ_eq_map, List.map_cons, List.map_map]
  refine congrArg₂ _ rfl (List.map_congr_left fun i _ => ?_)
  have hindex : k - (i + 1) = k - 1 - i := by omega
  exact congrArg w.getLsbD hindex

@[simp] theorem length_lowBits (w : Word) (k : Nat) : (lowBits w k).length = k := by simp [lowBits]

theorem bitsValue_lowBits (w : Word) (k : Nat) : bitsValue (lowBits w k) = w.toNat % 2 ^ k := by
  induction k with
  | zero => simp [lowBits, Nat.mod_one]
  | succ k ih =>
    rw [lowBits_succ, bitsValue_cons, length_lowBits, ih, Nat.mod_pow_succ, BitVec.getLsbD,
      Nat.toNat_testBit]
    ring

/-! ## The flush (R161) -/

/-- One pass of the flush: bit `i` of L through bit-plus-follow. -/
def flushPass (i : Nat) : Seq Unit := do
  let s ← get
  bitPlusFollowOp (s.l.getLsbD i)

theorem encFlushOp_eq : encFlushOp = loopDown flushPass smallB := rfl

/-- With no bit pending, every pass pushes the one bit. -/
theorem loopDown_flushPass (k : Nat) (s : State) (hbo : s.bo = 0#32) :
    loopDown flushPass k s = .ok () { s with bitOut := s.bitOut ++ lowBits s.l k } := by
  induction k generalizing s with
  | zero => simp [loopDown_zero, lowBits]
  | succ k ih =>
    have hpass : flushPass k s = .ok () { s with bitOut := s.bitOut ++ [s.l.getLsbD k] } := by
      refine (bitPlusFollowOp_apply _ s).trans ?_
      simp [hbo]
    rw [loopDown_succ, seq_bind, hpass]
    refine (ih { s with bitOut := s.bitOut ++ [s.l.getLsbD k] } hbo).trans ?_
    simp only [lowBits_succ, List.append_assoc, List.singleton_append]

/-- The state after the flush: the first pass discharges the pending bits too. -/
def flushed (s : State) : State :=
  { s with
    bitOut := s.bitOut ++ s.l.getLsbD 25 :: List.replicate s.bo.toNat (!s.l.getLsbD 25) ++ lowBits s.l 25
    bo := 0#32 }

theorem encFlushOp_apply (s : State) : encFlushOp s = .ok () (flushed s) := by
  rw [encFlushOp_eq, smallB, loopDown_succ, seq_bind]
  exact loopDown_flushPass 25 _ rfl

theorem exec_acEncFlush (s : State) : exec .acEncFlush s = .next (flushed s) :=
  have hexec : exec .acEncFlush s = perform encFlushOp s := rfl
  hexec.trans (perform_of_ok (encFlushOp_apply s))

/-- Settles O46: the flush by induction on its passes, the other two by their one assignment. -/
theorem encoderPlainOperations : Obligations.EncoderPlainOperations := fun s _ =>
  ⟨rfl, rfl, exec_acEncFlush s⟩

/-! ## A word that takes in bits at its low end (R165, R166) -/

/-- `(w << 1) or b`. -/
def shiftIn (w : Word) (b : Bool) : Word := (w <<< 1) ||| (BitVec.ofBool b).zeroExtend 32

theorem shiftIn_eq (w : Word) (b : Bool) : shiftIn w b = w * 2#32 + BitVec.ofNat 32 b.toNat := by
  have hdisjoint : (w <<< 1) &&& (BitVec.ofBool b).zeroExtend 32 = 0#32 := by
    refine BitVec.eq_of_getLsbD_eq fun i hi => ?_
    rcases i with _ | i <;> simp
  have hbit : (BitVec.ofBool b).zeroExtend 32 = BitVec.ofNat 32 b.toNat := by cases b <;> rfl
  have hdouble : w <<< 1 = w * 2#32 := by
    rw [BitVec.shiftLeft_eq_mul_twoPow]
    rfl
  rw [shiftIn, ← BitVec.add_eq_or_of_and_eq_zero _ _ hdisjoint, hbit, hdouble]

/-- Bits taken in one after the other are their number, below the word's own. -/
theorem foldl_shiftIn (bits : List Bool) (w : Word) :
    bits.foldl shiftIn w =
      w * BitVec.ofNat 32 (2 ^ bits.length) + BitVec.ofNat 32 (bitsValue bits) := by
  induction bits generalizing w with
  | nil => simp
  | cons b bits ih =>
    rw [List.foldl_cons, ih, shiftIn_eq, bitsValue_cons, List.length_cons, pow_succ, BitVec.ofNat_add,
      BitVec.ofNat_mul, BitVec.ofNat_mul]
    ring

/-! ## Priming the decoder (R165) -/

/-- One pass of `ac.dec_start`. -/
def primePass : Seq Unit := do
  let b ← pullBit
  modify fun s => { s with d := shiftIn s.d b }

theorem decStartOp_eq (s : State) :
    decStartOp s = loopUp (fun _ => primePass) 0 smallB { s with r := half, d := 0#32 } := rfl

theorem primePass_cons {s : State} {b : Bool} {rest : List Bool} (h : s.bitIn = b :: rest) :
    primePass s = .ok () { s with d := shiftIn s.d b, bitIn := rest } := by
  rw [primePass, seq_bind, pullBit_cons h]
  rfl

/-- What a pull on a port without a bit answers (R66, R68, R343). -/
def bitStop (eod : Bool) : Stop := if eod then .raise .truncated else .wait

theorem pullBit_nil {s : State} (h : s.bitIn = []) : pullBit s = .error (bitStop s.bitInEod) s := by
  cases he : s.bitInEod with
  | true => exact pullBit_eod h he
  | false => exact pullBit_empty h he

theorem primePass_nil {s : State} (h : s.bitIn = []) :
    primePass s = .error (bitStop s.bitInEod) s := by
  rw [primePass, seq_bind, pullBit_nil h]

theorem loopUp_primePass (bits rest : List Bool) (i : Nat) (s : State) (h : s.bitIn = bits ++ rest) :
    loopUp (fun _ => primePass) i bits.length s =
      .ok () { s with d := bits.foldl shiftIn s.d, bitIn := rest } := by
  induction bits generalizing i s with
  | nil =>
    rw [List.nil_append] at h
    rw [← h]
    rfl
  | cons b bits ih =>
    rw [List.length_cons, loopUp_succ, seq_bind, primePass_cons h]
    exact ih (i + 1) { s with d := shiftIn s.d b, bitIn := bits ++ rest } rfl

/-- A source with too few bits stops the loop once they are all taken in. -/
theorem loopUp_primePass_stops (k i : Nat) (s : State) (h : s.bitIn.length < k) :
    loopUp (fun _ => primePass) i k s =
      .error (bitStop s.bitInEod) { s with d := s.bitIn.foldl shiftIn s.d, bitIn := [] } := by
  induction k generalizing i s with
  | zero => exact absurd h (Nat.not_lt_zero _)
  | succ k ih =>
    rw [loopUp_succ, seq_bind]
    cases hb : s.bitIn with
    | nil =>
      have hsame : s = { s with d := s.d, bitIn := [] } := by rw [← hb]
      rw [primePass_nil hb]
      exact congrArg _ hsame
    | cons b rest =>
      rw [hb, List.length_cons] at h
      rw [primePass_cons hb]
      exact ih (i + 1) { s with d := shiftIn s.d b, bitIn := rest } (by simpa using h)

/-- `ac.dec_start` over 26 bits and any bits after them. -/
theorem decStartOp_apply {s : State} {bits rest : List Bool} (h : s.bitIn = bits ++ rest)
    (hlen : bits.length = 26) :
    decStartOp s =
      .ok () { s with r := half, d := BitVec.ofNat 32 (bitsValue bits), bitIn := rest } := by
  have hloop := loopUp_primePass bits rest 0 { s with r := half, d := 0#32 } h
  rw [hlen, foldl_shiftIn, BitVec.zero_mul, BitVec.zero_add] at hloop
  exact (decStartOp_eq s).trans hloop

theorem decStartOp_stops {s : State} (h : s.bitIn.length < 26) :
    decStartOp s = .error (bitStop s.bitInEod)
      { s with r := half, d := BitVec.ofNat 32 (bitsValue s.bitIn), bitIn := [] } := by
  have hloop := loopUp_primePass_stops 26 0 { s with r := half, d := 0#32 } h
  rw [foldl_shiftIn, BitVec.zero_mul, BitVec.zero_add] at hloop
  exact (decStartOp_eq s).trans hloop

theorem exec_acDecStart_eq (s : State) : exec .acDecStart s = perform decStartOp s := rfl

/-- Settles O52, by induction on the 26 pulls. -/
theorem decStartPrimesTheDecoder : Obligations.DecStartPrimesTheDecoder := by
  intro s
  simp only [exec_acDecStart_eq]
  refine ⟨fun h => ?_, fun h => ⟨fun heod => ?_, fun heod => ?_⟩⟩
  · refine perform_of_ok (decStartOp_apply (List.take_append_drop 26 s.bitIn).symm ?_)
    rw [List.length_take]
    omega
  · have hstop := decStartOp_stops h
    rw [bitStop, if_pos heod] at hstop
    exact perform_faulted hstop
  · have hstop := decStartOp_stops h
    rw [bitStop, if_neg (Bool.eq_false_iff.1 heod)] at hstop
    exact perform_of_wait hstop

end Sys2Proof.Machine
end

/-! PROOFS. The family `42_arith_coder.md`, the encoder in exact numbers (O47, O48, O49): `Doubled j` says what
`j` doublings of the interval are, each pass of `enc_renorm` is one, and `ac.encode` narrows the interval
before them. -/
section
namespace Sys2Proof.Machine

/-! ## Doubling the interval (R158, R159) -/

theorem toNat_half : half.toNat = 33554432 := rfl

theorem toNat_quarter : quarter.toNat = 16777216 := rfl

theorem toNat_boLimit : boLimit.toNat = 500000000 := rfl

/-- `t` is `s` with its interval doubled `j` times: R and the lower end are exactly scaled, and each doubling
has pushed a bit or left one more pending. -/
structure Doubled (j : Nat) (s t : State) : Prop where
  frame : t = { s with l := t.l, r := t.r, bo := t.bo, bitOut := t.bitOut }
  range : t.r.toNat = s.r.toNat * 2 ^ j
  fits : t.l.toNat + t.r.toNat ≤ 2 ^ 26
  pushed : s.bitOut <+: t.bitOut
  count : t.bitOut.length + t.bo.toNat = s.bitOut.length + s.bo.toNat + j
  low : lowEnd t = lowEnd s * 2 ^ j

theorem Doubled.refl {s : State} (h : s.l.toNat + s.r.toNat ≤ 2 ^ 26) : Doubled 0 s s where
  frame := rfl
  range := (Nat.mul_one _).symm
  fits := h
  pushed := List.prefix_rfl
  count := rfl
  low := (Nat.mul_one _).symm

theorem Doubled.trans {i j : Nat} {s t u : State} (h1 : Doubled i s t) (h2 : Doubled j t u) :
    Doubled (j + i) s u where
  frame := by
    rw [h2.frame, h1.frame]
  range := by rw [h2.range, h1.range, pow_add]; ring
  fits := h2.fits
  pushed := h1.pushed.trans h2.pushed
  count := by have := h1.count; have := h2.count; omega
  low := by rw [h2.low, h1.low, pow_add]; ring

theorem Doubled.bo_le {j : Nat} {s t : State} (h : Doubled j s t) : t.bo.toNat ≤ s.bo.toNat + j := by
  have := h.pushed.length_le
  have := h.count
  omega

/-! ## One pass of `enc_renorm` -/

/-- A bit and the opposite bits that follow it, as a number (R158). -/
theorem bitsValue_follow (b : Bool) (k : Nat) :
    bitsValue (b :: List.replicate k (!b)) = if b then 2 ^ k else 2 ^ k - 1 := by
  have hones := bitsValue_replicate_true k
  rw [bitsValue_cons, List.length_replicate]
  cases b
  · simp only [Bool.not_false, Bool.toNat_false, Bool.false_eq_true, if_false]
    omega
  · simp

/-- The lower end after a bit is decided: its value, the pending bits and the rest of L (R158). -/
theorem lowEnd_decided (s : State) (b : Bool) (l : Word) :
    lowEnd { s with
      bitOut := s.bitOut ++ b :: List.replicate s.bo.toNat (!b), bo := 0#32, l := l } =
      (bitsValue s.bitOut * 2 ^ (s.bo.toNat + 1) + if b then 2 ^ s.bo.toNat else 2 ^ s.bo.toNat - 1) *
        2 ^ 26 + l.toNat := by
  have hzero : (0#32).toNat = 0 := rfl
  simp only [lowEnd, bitsValue_append, bitsValue_follow, hzero, List.length_cons, List.length_replicate,
    smallB, pow_zero, Nat.sub_self, Nat.mul_zero, Nat.add_zero]

section Pass

variable {s : State}

theorem toNat_shiftLeft_one {w : Word} (h : w.toNat < 2 ^ 31) : (w <<< 1).toNat = 2 * w.toNat := by
  rw [BitVec.toNat_shiftLeft, Nat.shiftLeft_eq]
  omega

theorem toNat_add_of_fits (hfits : s.l.toNat + s.r.toNat ≤ 2 ^ 26) :
    (s.l + s.r).toNat = s.l.toNat + s.r.toNat := by
  rw [BitVec.toNat_add]
  omega

/-- The state after a pass that decides the bit `b`, with `l` what is left of L. -/
def decided (b : Bool) (l : Word) (s : State) : State :=
  { s with
    bitOut := s.bitOut ++ b :: List.replicate s.bo.toNat (!b)
    bo := 0#32, l := l <<< 1, r := s.r <<< 1 }

theorem doubled_decided {b : Bool} {l : Word} (hr : s.r.toNat ≤ 2 ^ 24)
    (hl : l.toNat + (if b then half.toNat else 0) = s.l.toNat)
    (hfits : l.toNat + s.r.toNat ≤ 2 ^ 25) : Doubled 1 s (decided b l s) := by
  have hr2 : (s.r <<< 1).toNat = 2 * s.r.toNat := toNat_shiftLeft_one (by omega)
  have hl2 : (l <<< 1).toNat = 2 * l.toNat := toNat_shiftLeft_one (by omega)
  refine ⟨rfl, ?_, ?_, List.prefix_append _ _, ?_, ?_⟩
  · simp only [decided, hr2]
    omega
  · simp only [decided, hr2, hl2]
    omega
  · simp [decided]
    omega
  · have hpow := Nat.one_le_two_pow (n := s.bo.toNat)
    refine (lowEnd_decided s b (l <<< 1)).trans ?_
    rw [hl2, lowEnd, ← hl, toNat_half, smallB, pow_add, pow_add]
    generalize 2 ^ s.bo.toNat = p at *
    obtain ⟨q, rfl⟩ := Nat.exists_eq_add_of_le hpow
    cases b
    · simp only [Bool.false_eq_true, if_false, Nat.add_sub_cancel_left]
      ring
    · simp only [if_true, Nat.add_sub_cancel_left]
      ring

/-- The state after a pass that postpones its bit. -/
def postponed (s : State) : State :=
  { s with l := (s.l - quarter) <<< 1, r := s.r <<< 1, bo := s.bo + 1#32 }

theorem doubled_postponed (hr : s.r.toNat ≤ 2 ^ 24) (hfits : s.l.toNat + s.r.toNat ≤ 2 ^ 26)
    (hl : s.l.toNat < 2 ^ 25) (hlr : 2 ^ 25 < s.l.toNat + s.r.toNat)
    (hbo : s.bo.toNat < boLimit.toNat) : Doubled 1 s (postponed s) := by
  rw [toNat_boLimit] at hbo
  have hr2 : (s.r <<< 1).toNat = 2 * s.r.toNat := toNat_shiftLeft_one (by omega)
  have hsub : (s.l - quarter).toNat = s.l.toNat - 16777216 :=
    BitVec.toNat_sub_of_le (by rw [BitVec.le_def, toNat_quarter]; omega)
  have hl2 : ((s.l - quarter) <<< 1).toNat = 2 * (s.l - quarter).toNat :=
    toNat_shiftLeft_one (by omega)
  have hbo2 : (s.bo + 1#32).toNat = s.bo.toNat + 1 := by
    rw [BitVec.toNat_add, BitVec.toNat_ofNat]
    omega
  refine ⟨rfl, ?_, ?_, List.prefix_rfl, ?_, ?_⟩
  · simp only [postponed, hr2]
    omega
  · simp only [postponed, hr2, hl2, hsub]
    omega
  · simp only [postponed, hbo2]
    omega
  · simp only [lowEnd, postponed, hl2, hsub, hbo2, toNat_half, smallB]
    have hpow := Nat.one_le_two_pow (n := s.bo.toNat)
    obtain ⟨k, hk⟩ : ∃ k, s.l.toNat = k + 16777216 := ⟨s.l.toNat - 16777216, by omega⟩
    rw [hk]
    simp only [pow_add, pow_one]
    generalize 2 ^ s.bo.toNat = p at *
    obtain ⟨q, rfl⟩ := Nat.exists_eq_add_of_le hpow
    have hp2 : (1 + q) * 2 - 1 = 1 + 2 * q := by omega
    rw [hp2, Nat.add_sub_cancel_left, Nat.add_sub_cancel]
    ring

/-- One pass of the loop of R159. -/
def renormPass : Seq Unit := do
  encDecideOp
  encShiftOp

theorem encRenormLoop_pass (fuel : Nat) (hq : s.r ≤ quarter) :
    encRenormLoop (fuel + 1) s = (do renormPass; encRenormLoop fuel) s := by
  simp only [encRenormLoop, renormPass, seq_bind, seq_get, hq, if_true]
  cases encDecideOp s <;> rfl

theorem encRenormLoop_done (fuel : Nat) (hq : ¬ s.r ≤ quarter) :
    encRenormLoop (fuel + 1) s = .ok () s := by
  simp only [encRenormLoop, seq_bind, seq_get, hq, if_false, seq_pure]

/-- Below BO_LIMIT a pass is a doubling. -/
theorem renormPass_doubles (hr : s.r ≤ quarter) (hfits : s.l.toNat + s.r.toNat ≤ 2 ^ 26)
    (hbo : s.bo.toNat < boLimit.toNat) :
    ∃ t, renormPass s = .ok () t ∧ Doubled 1 s t := by
  rw [BitVec.le_def, toNat_quarter] at hr
  have hsum := toNat_add_of_fits hfits
  by_cases hlower : s.l + s.r ≤ half
  · refine ⟨decided false s.l s, ?_, doubled_decided hr (Nat.add_zero _) ?_⟩
    · rw [renormPass, seq_bind, encDecideOp_lower hlower]
      rfl
    · rw [BitVec.le_def, hsum, toNat_half] at hlower
      exact hlower
  by_cases hupper : half ≤ s.l
  · have hsub : (s.l - half).toNat = s.l.toNat - half.toNat := BitVec.toNat_sub_of_le hupper
    refine ⟨decided true (s.l - half) s, ?_, doubled_decided hr ?_ ?_⟩
    · rw [renormPass, seq_bind, encDecideOp_upper hlower hupper]
      rfl
    · rw [BitVec.le_def] at hupper
      rw [hsub, if_pos rfl]
      omega
    · rw [BitVec.le_def] at hupper
      rw [hsub, toNat_half] at *
      omega
  · have hcheck : ¬ boLimit < s.bo + 1#32 := by
      rw [toNat_boLimit] at hbo
      rw [BitVec.lt_def, toNat_boLimit, BitVec.toNat_add, BitVec.toNat_ofNat]
      omega
    refine ⟨postponed s, ?_, ?_⟩
    · rw [renormPass, seq_bind, encDecideOp_middle hlower hupper, if_neg hcheck]
      rfl
    · rw [BitVec.not_le, BitVec.lt_def, toNat_half] at hupper hlower
      rw [hsum] at hlower
      exact doubled_postponed hr hfits hupper hlower hbo

/-! ## The loop -/

/-- `k` doublings are enough, and BO has room for them. -/
theorem encRenormLoop_doubles (k fuel : Nat) (hk : k < fuel) (hr : quarter.toNat < s.r.toNat * 2 ^ k)
    (hhalf : s.r ≤ half) (hfits : s.l.toNat + s.r.toNat ≤ 2 ^ 26)
    (hbo : s.bo.toNat + k ≤ boLimit.toNat) :
    ∃ t j, encRenormLoop fuel s = .ok () t ∧ j ≤ k ∧ Doubled j s t ∧ rangeOk t := by
  induction k generalizing s fuel with
  | zero =>
    obtain ⟨fuel, rfl⟩ := Nat.exists_eq_add_of_lt hk
    have hq : ¬ s.r ≤ quarter := by
      rw [BitVec.le_def]
      omega
    exact ⟨s, 0, encRenormLoop_done _ hq, le_rfl, .refl hfits, BitVec.not_le.1 hq, hhalf⟩
  | succ k ih =>
    obtain ⟨fuel, rfl⟩ := Nat.exists_eq_add_of_lt hk
    by_cases hq : s.r ≤ quarter
    · obtain ⟨t, hpass, hdoubled⟩ := renormPass_doubles hq hfits (by omega)
      have hrange := hdoubled.range
      have hle := BitVec.le_def.1 hq
      rw [toNat_quarter] at hle
      obtain ⟨u, j, hloop, hj, hrest, hok⟩ := ih (s := t) (k + 1 + fuel) (by omega)
        (by rw [hrange]; rw [pow_succ] at hr; linarith)
        (by rw [BitVec.le_def, hrange, toNat_half]; omega) hdoubled.fits
        (by have := hdoubled.bo_le; omega)
      refine ⟨u, j + 1, ?_, by omega, hdoubled.trans hrest, hok⟩
      rw [encRenormLoop_pass _ hq, seq_bind, hpass]
      exact hloop
    · exact ⟨s, 0, encRenormLoop_done _ hq, Nat.zero_le _, .refl hfits, BitVec.not_le.1 hq, hhalf⟩

/-- `enc_renorm` from a range that is not empty (R159, R160). -/
theorem encRenormOp_doubles (hpos : 1 ≤ s.r.toNat) (hhalf : s.r ≤ half)
    (hfits : s.l.toNat + s.r.toNat ≤ 2 ^ 26) (hbo : s.bo.toNat + 25 ≤ boLimit.toNat) :
    ∃ t j, encRenormOp s = .ok () t ∧ j ≤ 25 ∧ Doubled j s t ∧ rangeOk t :=
  encRenormLoop_doubles 25 32 (by omega) (by rw [toNat_quarter]; omega) hhalf hfits hbo

/-- A bit postponed at BO_LIMIT (R160). -/
theorem encRenormOp_runaway (hq : s.r ≤ quarter) (hl : s.l < half)
    (hlr : half.toNat < s.l.toNat + s.r.toNat) (hbo : s.bo = boLimit) :
    encRenormOp s =
      .error (.raise .bitsRunaway) { s with l := s.l - quarter, bo := 500000001#32 } := by
  have hsum : (s.l + s.r).toNat = s.l.toNat + s.r.toNat := by
    rw [BitVec.le_def, toNat_quarter] at hq
    rw [BitVec.lt_def, toNat_half] at hl
    exact toNat_add_of_fits (by omega)
  have hlower : ¬ s.l + s.r ≤ half := by
    rw [BitVec.le_def]
    omega
  have hnext : s.bo + 1#32 = 500000001#32 := by
    rw [hbo]
    rfl
  have hdecide := encDecideOp_middle hlower (BitVec.not_le.2 hl)
  rw [hnext, if_pos (by decide)] at hdecide
  rw [encRenormOp, encRenormLoop_pass _ hq, seq_bind, renormPass, seq_bind, hdecide]

theorem exec_acEncRenorm (s : State) : exec .acEncRenorm s = perform encRenormOp s := rfl

end Pass

/-- Settles O47, by the passes of the loop, each of them a doubling. -/
theorem renormScalesTheInterval : Obligations.RenormScalesTheInterval := by
  intro s
  rw [exec_acEncRenorm]
  refine ⟨fun hpos hhalf hfits hbo => ?_, fun hq hl hlr hbo => ?_⟩
  · obtain ⟨t, j, hop, hj, hdoubled, hrange⟩ := encRenormOp_doubles hpos hhalf hfits hbo
    exact ⟨t, j, perform_of_ok hop, hdoubled.frame, hj, hrange, hdoubled.range, hdoubled.fits,
      hdoubled.pushed, hdoubled.count, hdoubled.low⟩
  · exact perform_faulted (encRenormOp_runaway hq hl hlr hbo)

/-! ## The part of a symbol (R156 step 2, R166 step 3) -/

theorem toNat_freqAt (fm : FreqModel) (sym : Nat) : (freqAt fm sym).toNat = freqNat fm sym :=
  (List.getD_map ..).symm

/-- What the formulas of R156 and R166 rest on, in exact numbers: the symbol's part lies within the total, and
the total within the range. -/
structure SymbolPart (s : State) (fm : FreqModel) (sym : Nat) : Prop where
  low_eq : (lowCum fm sym).toNat = lowCumNat fm sym
  freq_pos : 1 ≤ freqNat fm sym
  part_le : lowCumNat fm sym + freqNat fm sym ≤ fm.totFreq.toNat
  tot_le : fm.totFreq.toNat ≤ quarter.toNat
  tot_ne : fm.totFreq ≠ 0#32
  range : rangeOk s

theorem symbolPart_of_modelsOk {s : State} (hs : modelsOk s) (hr : rangeOk s) {m : ModelId} {sym : Nat}
    (hsym : sym < numSymbols m) : SymbolPart s (modelAt s m) sym := by
  have hm : modelOk s.par m (modelAt s m) := hs.model m
  have htot := hm.totFreq_le hs.params
  rw [← hm.length_eq] at hsym
  obtain ⟨hpos, hpart⟩ := hm.symbol_part hs.params hsym
  have hlow : (lowCum (modelAt s m) sym).toNat = lowCumNat (modelAt s m) sym := by
    obtain ⟨-, -, hsum, -, -⟩ := hm
    have hle := sum_take_add_getD_le hsym
    rw [toNat_quarter] at htot
    exact toNat_sumWords (by omega)
  rw [toNat_freqAt] at hpos hpart
  rw [hlow] at hpart
  exact ⟨hlow, hpos, hpart, htot, hm.totFreq_ne_zero hs.params, hr⟩

namespace SymbolPart

variable {s : State} {fm : FreqModel} {sym : Nat} (h : SymbolPart s fm sym)
include h

omit h in
theorem step_mul_tot_le : stepOf s fm * fm.totFreq.toNat ≤ s.r.toNat := Nat.div_mul_le_self _ _

theorem r_le : s.r.toNat ≤ 2 ^ 25 :=
  have ⟨_, hhi⟩ := h.range
  BitVec.le_def.1 hhi

theorem step_pos : 1 ≤ stepOf s fm := by
  obtain ⟨hlo, -⟩ := h.range
  rw [BitVec.lt_def] at hlo
  have htot := h.tot_le
  have := h.part_le
  have := h.freq_pos
  exact (Nat.one_le_div_iff (by omega)).2 (by omega)

/-- No product of step 2 carries out of a word (R157). -/
theorem toNat_step_mul {x : Word} (hx : x.toNat ≤ fm.totFreq.toNat) :
    (s.r / fm.totFreq * x).toNat = stepOf s fm * x.toNat := by
  have hle : stepOf s fm * x.toNat ≤ stepOf s fm * fm.totFreq.toNat := Nat.mul_le_mul_left _ hx
  have := step_mul_tot_le (s := s) (fm := fm)
  have := h.r_le
  rw [BitVec.toNat_mul, BitVec.toNat_udiv]
  exact Nat.mod_eq_of_lt (by rw [← stepOf]; omega)

theorem toNat_step_mul_low :
    (s.r / fm.totFreq * lowCum fm sym).toNat = stepOf s fm * lowCumNat fm sym := by
  have := h.part_le
  rw [h.toNat_step_mul (by rw [h.low_eq]; omega), h.low_eq]

/-- The symbol's part lies within the interval. -/
theorem low_add_narrowed_le :
    stepOf s fm * lowCumNat fm sym + narrowedRange s fm sym ≤ s.r.toNat := by
  have hle : stepOf s fm * (lowCumNat fm sym + freqNat fm sym) ≤ stepOf s fm * fm.totFreq.toNat :=
    Nat.mul_le_mul_left _ h.part_le
  have := step_mul_tot_le (s := s) (fm := fm)
  rw [Nat.mul_add] at hle
  unfold narrowedRange
  split <;> omega

theorem narrowedRange_pos : 1 ≤ narrowedRange s fm sym := by
  have hle : stepOf s fm * (lowCumNat fm sym + freqNat fm sym) ≤ stepOf s fm * fm.totFreq.toNat :=
    Nat.mul_le_mul_left _ h.part_le
  have hpos : 1 ≤ stepOf s fm * freqNat fm sym := Nat.mul_pos h.step_pos h.freq_pos
  have := step_mul_tot_le (s := s) (fm := fm)
  rw [Nat.mul_add] at hle
  unfold narrowedRange
  split <;> omega

theorem toNat_narrowed :
    (narrowed s.r fm.totFreq (lowCum fm sym) (freqAt fm sym)).toNat = narrowedRange s fm sym := by
  have hfreq := toNat_freqAt fm sym
  have hpart := h.part_le
  have hlow := h.toNat_step_mul_low
  have hle := h.low_add_narrowed_le
  have htot := h.tot_le
  have hsum : (lowCum fm sym + freqAt fm sym).toNat = lowCumNat fm sym + freqNat fm sym := by
    rw [toNat_quarter] at htot
    rw [BitVec.toNat_add, h.low_eq, hfreq]
    exact Nat.mod_eq_of_lt (by omega)
  unfold narrowed narrowedRange
  simp only [BitVec.lt_def, hsum]
  split
  · rw [h.toNat_step_mul (by omega), hfreq]
  · rw [BitVec.toNat_sub_of_le (by rw [BitVec.le_def]; omega), hlow]

end SymbolPart

/-! ## The doublings of a range (R159, R166 step 4) -/

/-- `j` doublings bring the range `r` back into `QUARTER < R <= HALF`. -/
def Renorms (r j : Nat) : Prop := quarter.toNat < r * 2 ^ j ∧ r * 2 ^ j ≤ half.toNat

theorem Renorms.le {r i j : Nat} (hi : Renorms r i) (hj : Renorms r j) : j ≤ i := by
  by_contra hlt
  obtain ⟨hlo, -⟩ := hi
  obtain ⟨-, hhi⟩ := hj
  have hpow : 2 ^ (i + 1) ≤ 2 ^ j := Nat.pow_le_pow_right (by decide) (by omega)
  have hmul := Nat.mul_le_mul_left r hpow
  rw [pow_succ, ← Nat.mul_assoc] at hmul
  rw [toNat_quarter] at hlo
  rw [toNat_half] at hhi
  omega

/-- Their number is determined by the range. -/
theorem Renorms.unique {r i j : Nat} (hi : Renorms r i) (hj : Renorms r j) : i = j :=
  Nat.le_antisymm (hj.le hi) (hi.le hj)

theorem exists_renorms (k : Nat) {r : Nat} (hk : quarter.toNat < r * 2 ^ k) (hhalf : r ≤ half.toNat) :
    ∃ j, j ≤ k ∧ Renorms r j := by
  induction k generalizing r with
  | zero => exact ⟨0, le_rfl, hk, by simpa using hhalf⟩
  | succ k ih =>
    by_cases hq : quarter.toNat < r
    · exact ⟨0, Nat.zero_le _, by simpa [Renorms] using ⟨hq, hhalf⟩⟩
    · rw [toNat_quarter] at hq
      obtain ⟨j, hj, hlo, hhi⟩ := ih (r := r * 2) (by rw [pow_succ] at hk; linarith)
        (by rw [toNat_half]; omega)
      have hpow : r * 2 ^ (j + 1) = r * 2 * 2 ^ j := by ring
      exact ⟨j + 1, Nat.succ_le_succ hj, by rw [Renorms, hpow]; exact ⟨hlo, hhi⟩⟩

/-- A range that is not empty takes at most 25 doublings. -/
theorem exists_renorms_of_pos {r : Nat} (hpos : 1 ≤ r) (hhalf : r ≤ half.toNat) :
    ∃ j, j ≤ 25 ∧ Renorms r j :=
  exists_renorms 25 (by rw [toNat_quarter]; omega) hhalf

/-! ## Encoding a symbol (R156) -/

/-- The interval of symbol `sym` taken out of the encoder's. -/
def encNarrowed (fm : FreqModel) (sym : Nat) (s : State) : State :=
  { s with
    l := s.l + s.r / fm.totFreq * lowCum fm sym
    r := narrowed s.r fm.totFreq (lowCum fm sym) (freqAt fm sym) }

theorem encodeOp_eq {s : State} {m : ModelId} {sym : Nat} (hsym : sym < numSymbols m)
    (htot : (modelAt s m).totFreq ≠ 0#32) :
    encodeOp m sym s =
      (do encRenormOp; modelUpdateOp m sym) (encNarrowed (modelAt s m) sym s) :=
  (seq_bind_of_ok (checkSymbol_of_lt hsym s) _).trans <|
    (seq_bind_of_ok (readModel_apply m s) _).trans <|
      seq_bind_of_ok (encNarrowOp_of_ne_zero htot sym s) _

/-- `t` is `s` with the symbol `sym` of model `m` encoded, in `j` doublings. -/
structure Encoded (m : ModelId) (sym j : Nat) (s t : State) : Prop where
  frame : t = { s with l := t.l, r := t.r, bo := t.bo, bitOut := t.bitOut, models := t.models }
  doublings : j ≤ 25
  range : t.r.toNat = narrowedRange s (modelAt s m) sym * 2 ^ j
  inRange : rangeOk t
  fits : t.l.toNat + t.r.toNat ≤ 2 ^ 26
  pushed : s.bitOut <+: t.bitOut
  count : t.bitOut.length + t.bo.toNat = s.bitOut.length + s.bo.toNat + j
  low : lowEnd t = (lowEnd s + stepOf s (modelAt s m) * lowCumNat (modelAt s m) sym) * 2 ^ j
  models : t.models = s.models.set m.val (updatedModel s.par m (modelAt s m) sym)

theorem encodeOp_encodes {s : State} {m : ModelId} {sym : Nat} (hs : modelsOk s)
    (hsym : sym < numSymbols m) (henc : encoderOk 1 s) :
    ∃ t j, encodeOp m sym s = .ok () t ∧ Encoded m sym j s t := by
  obtain ⟨hrange, hfits, hbo⟩ := henc
  have hpart := symbolPart_of_modelsOk hs hrange hsym
  have hr := hpart.toNat_narrowed
  have hle := hpart.low_add_narrowed_le
  have hr_le := hpart.r_le
  have hl : (encNarrowed (modelAt s m) sym s).l.toNat =
      s.l.toNat + stepOf s (modelAt s m) * lowCumNat (modelAt s m) sym := by
    rw [encNarrowed, BitVec.toNat_add, hpart.toNat_step_mul_low]
    exact Nat.mod_eq_of_lt (by omega)
  have hlow : lowEnd (encNarrowed (modelAt s m) sym s) =
      lowEnd s + stepOf s (modelAt s m) * lowCumNat (modelAt s m) sym := by
    rw [lowEnd, hl, lowEnd]
    exact (Nat.add_assoc _ _ _).symm
  obtain ⟨t, j, hop, hj, hdoubled, hrt⟩ := encRenormOp_doubles (s := encNarrowed (modelAt s m) sym s)
    (hr ▸ hpart.narrowedRange_pos) (by rw [BitVec.le_def, toNat_half]; exact hr ▸ (by omega))
    (by rw [hl]; exact hr ▸ (by omega)) hbo
  have hframe := hdoubled.frame
  have hmodels : t.models = s.models := by rw [hframe]; rfl
  have hpar : t.par = s.par := by rw [hframe]; rfl
  refine ⟨{ t with models := s.models.set m.val (updatedModel s.par m (modelAt s m) sym) }, j, ?_,
    ⟨?_, hj, ?_, hrt, hdoubled.fits, hdoubled.pushed, hdoubled.count, ?_, rfl⟩⟩
  · rw [encodeOp_eq hsym hpart.tot_ne, seq_bind_of_ok hop, modelUpdateOp_of_lt hsym, hmodels, hpar]
    rfl
  · rw [hframe]
    rfl
  · rw [← hr]
    exact hdoubled.range
  · rw [← hlow]
    exact hdoubled.low

theorem encoderOk.range {k : Nat} {s : State} (h : encoderOk k s) : rangeOk s := h.1

theorem encoderOk.mono {i k : Nat} {s : State} (h : encoderOk k s) (hik : i ≤ k) : encoderOk i s := by
  obtain ⟨hrange, hfits, hbo⟩ := h
  exact ⟨hrange, hfits, by omega⟩

/-- An update through a symbol of the model keeps R146. -/
theorem modelsOk.updated {s t : State} (hs : modelsOk s) {m : ModelId} {sym : Nat}
    (hsym : sym < numSymbols m)
    (hmodels : t.models = s.models.set m.val (updatedModel s.par m (modelAt s m) sym))
    (hpar : t.par = s.par) : modelsOk t := by
  have hm : modelOk s.par m (modelAt s m) := hs.model m
  have hset := hs.set (modelOk_updatedModel hs.params hm (by rwa [hm.length_eq]))
  exact hset.congr hmodels hpar

namespace Encoded

variable {s t : State} {m : ModelId} {sym j : Nat} (h : Encoded m sym j s t)
include h

theorem par_eq : t.par = s.par := by rw [h.frame]

theorem modelUpdate_next (hsym : sym < numSymbols m) :
    exec (.modelUpdate m sym) s = .next { s with models := t.models } := by
  rw [exec_modelUpdate_of_lt hsym, h.models]

theorem renorms : Renorms (narrowedRange s (modelAt s m) sym) j := by
  obtain ⟨hlo, hhi⟩ := h.inRange
  rw [Renorms, ← h.range]
  exact ⟨BitVec.lt_def.1 hlo, BitVec.le_def.1 hhi⟩

theorem modelsOk (hs : Machine.modelsOk s) (hsym : sym < numSymbols m) : Machine.modelsOk t :=
  hs.updated hsym h.models h.par_eq

/-- One symbol takes at most 25 of BO's room. -/
theorem encoderOk {k : Nat} (hs : Machine.encoderOk (k + 1) s) : Machine.encoderOk k t := by
  obtain ⟨-, -, hbo⟩ := hs
  have hlen := h.pushed.length_le
  have hcount := h.count
  have hj := h.doublings
  exact ⟨h.inRange, h.fits, by omega⟩

end Encoded

theorem toNat_lt_bogusSymbols (b : Byte) : b.toNat < numSymbols bogusModel := b.isLt

theorem exec_acEncode (m : ModelId) (sym : Nat) (s : State) :
    exec (.acEncode m sym) s = perform (encodeOp m sym) s := rfl

theorem exec_acPutU8 (b : Byte) (s : State) :
    exec (.acPutU8 b) s = exec (.acEncode bogusModel b.toNat) s := rfl

/-- Settles O48: the interval is narrowed, and the doublings scale it. -/
theorem encodeTakesTheSymbolsPart : Obligations.EncodeTakesTheSymbolsPart := by
  intro s m sym hs hsym henc
  refine ⟨?_, fun b => ?_⟩
  · obtain ⟨t, j, hop, h⟩ := encodeOp_encodes hs hsym henc
    exact ⟨t, j, (exec_acEncode m sym s).trans (perform_of_ok hop), h.frame, h.doublings, h.range,
      h.inRange, h.fits, h.pushed, h.count, h.low, h.modelUpdate_next hsym, fun k => h.encoderOk⟩
  · obtain ⟨t, j, hop, -⟩ := encodeOp_encodes hs (toNat_lt_bogusSymbols b) henc
    have hnext := (exec_acEncode bogusModel b.toNat s).trans (perform_of_ok hop)
    exact ⟨t, (exec_acPutU8 b s).trans hnext, hnext⟩

/-! ## Encoding a sequence of symbols (R97) -/

/-- The interval of `t` lies within that of `s` after `j` doublings of it. -/
structure Within (j : Nat) (s t : State) : Prop where
  frame : t = { s with l := t.l, r := t.r, bo := t.bo, bitOut := t.bitOut, models := t.models }
  pushed : s.bitOut <+: t.bitOut
  count : t.bitOut.length + t.bo.toNat = s.bitOut.length + s.bo.toNat + j
  low_le : lowEnd s * 2 ^ j ≤ lowEnd t
  high_le : lowEnd t + t.r.toNat ≤ (lowEnd s + s.r.toNat) * 2 ^ j

theorem Within.refl (s : State) : Within 0 s s :=
  ⟨rfl, List.prefix_rfl, rfl, (Nat.mul_one _).le, (Nat.mul_one _).ge⟩

theorem Within.trans {i j : Nat} {s t u : State} (h1 : Within i s t) (h2 : Within j t u) :
    Within (i + j) s u where
  frame := by rw [h2.frame, h1.frame]
  pushed := h1.pushed.trans h2.pushed
  count := by have := h1.count; have := h2.count; omega
  low_le := by
    rw [pow_add, ← Nat.mul_assoc]
    exact (Nat.mul_le_mul_right _ h1.low_le).trans h2.low_le
  high_le := by
    rw [pow_add, ← Nat.mul_assoc]
    exact h2.high_le.trans (Nat.mul_le_mul_right _ h1.high_le)

theorem Encoded.within {m : ModelId} {sym j : Nat} {s t : State} (h : Encoded m sym j s t)
    (hpart : SymbolPart s (modelAt s m) sym) : Within j s t where
  frame := h.frame
  pushed := h.pushed
  count := h.count
  low_le := by
    rw [h.low]
    exact Nat.mul_le_mul_right _ (Nat.le_add_right _ _)
  high_le := by
    rw [h.low, h.range, ← Nat.add_mul, Nat.add_assoc]
    exact Nat.mul_le_mul_right _ (Nat.add_le_add_left hpart.low_add_narrowed_le _)

theorem encodeItems_cons (item : Item) (rest : List Item) :
    encodeItems (item :: rest) = (do encodeOp item.1 item.2; encodeItems rest) := rfl

theorem encodeItems_singleton (m : ModelId) (sym : Nat) :
    encodeItems [(m, sym)] = encodeOp m sym :=
  bind_pure_unit

/-- A sequence of symbols is encoded while BO has room for it. -/
theorem encodeItems_within {items : List Item} {k : Nat} {s : State} (hs : modelsOk s)
    (hitems : ∀ item ∈ items, itemOk item) (henc : encoderOk (items.length + k) s) :
    ∃ t j, encodeItems items s = .ok () t ∧ modelsOk t ∧ encoderOk k t ∧ Within j s t := by
  induction items generalizing s with
  | nil => exact ⟨s, 0, rfl, hs, by simpa using henc, .refl s⟩
  | cons item rest ih =>
    have hitem : item.2 < numSymbols item.1 := hitems item List.mem_cons_self
    rw [List.length_cons, Nat.add_right_comm] at henc
    obtain ⟨t, i, hop, h⟩ := encodeOp_encodes hs hitem (henc.mono (by omega))
    obtain ⟨u, j, hrest, hu, hencu, hw⟩ := ih (h.modelsOk hs hitem)
      (fun x hx => hitems x (List.mem_cons_of_mem _ hx)) (h.encoderOk henc)
    refine ⟨u, i + j, ?_, hu, hencu, (h.within (symbolPart_of_modelsOk hs henc.range hitem)).trans hw⟩
    rw [encodeItems_cons, seq_bind_of_ok hop, hrest]

/-! ## Sends (R170, R193 to R195, R100 to R104) -/

/-- What is performed as the encoding of symbols of their models completes. -/
theorem sends_of_encodeItems {i : Instr} {items : List Item} {s : State} (hs : modelsOk s)
    (hexec : exec i s = perform (encodeItems items) s) (hitems : ∀ item ∈ items, itemOk item) {n : Nat}
    (hn : items.length ≤ n) (henc : encoderOk n s) : sends i items s := by
  obtain ⟨t, j, hop, ht, henct, hw⟩ := encodeItems_within (k := 0) hs hitems (henc.mono hn)
  exact ⟨t, hexec.trans (perform_of_ok hop), hop, hw.frame, ht, henct⟩

/-- The symbols of a word are its bytes, most significant first (R103). -/
theorem wordItems_eq (w : Word) : wordItems w = (fieldBytes w).map fun b => (bogusModel, b.toNat) := by
  have hbyte (i : Nat) : (w.extractLsb' i 8).toNat = w.toNat / 2 ^ i % 256 := by
    rw [BitVec.extractLsb'_toNat, Nat.shiftRight_eq_div_pow]
  have hw := w.isLt
  have htop : w.toNat / 2 ^ 24 % 256 = w.toNat / 2 ^ 24 := Nat.mod_eq_of_lt (by omega)
  have hlow : w.toNat / 2 ^ 0 % 256 = w.toNat % 256 := by rw [pow_zero, Nat.div_one]
  simp only [wordItems, fieldBytes, List.map_cons, List.map_nil, hbyte, htop, hlow]

theorem putU32Op_eq (w : Word) : putU32Op w = encodeItems (wordItems w) := by
  rw [wordItems_eq]
  exact congrArg _ (funext fun _ => congrArg _ (funext fun _ => congrArg _ (funext fun _ =>
    (encodeItems_singleton _ _).symm)))

theorem itemOk_wordItems (w : Word) : ∀ item ∈ wordItems w, itemOk item := by
  rw [wordItems_eq]
  intro item h
  obtain ⟨b, -, rfl⟩ := List.mem_map.1 h
  exact toNat_lt_bogusSymbols b

theorem sendDigits_eq (digits : List RunDigit) :
    sendDigits digits = encodeItems (digits.map fun d => (basisModel, digitSymbol d)) := by
  induction digits with
  | nil => rfl
  | cons d rest ih => rw [sendDigits, ih, List.map_cons, encodeItems_cons]

/-- The digits of R193 are the run string of R102. -/
theorem runDigits_eq (fuel k : Nat) (hk : k < 2 ^ fuel) : runDigits fuel k = runString k := by
  induction fuel generalizing k with
  | zero =>
    obtain rfl : k = 0 := by omega
    rfl
  | succ fuel ih =>
    cases k with
    | zero => rfl
    | succ k =>
      rw [pow_succ] at hk
      rw [runDigits, if_neg (Nat.succ_ne_zero k), runString_succ, Nat.add_sub_cancel, ih _ (by omega),
        Nat.testBit_zero, Nat.add_mod_right]
      simp

theorem sendZeroesOp_eq (k : Word) : sendZeroesOp k = encodeItems (runItems k.toNat) := by
  rw [sendZeroesOp, runDigits_eq 32 _ k.isLt, sendDigits_eq]
  rfl

theorem itemOk_basis {sym : Nat} (h : sym < 11) : itemOk (basisModel, sym) := h

theorem itemOk_runItems (k : Nat) : ∀ item ∈ runItems k, itemOk item := by
  intro item h
  obtain ⟨d, -, rfl⟩ := List.mem_map.1 h
  cases d
  · exact itemOk_basis (by decide)
  · exact itemOk_basis (by decide)

theorem length_runItems_le {k : Nat} (hk : k < 2 ^ 32) : (runItems k).length ≤ 32 := by
  simp only [runItems, runString, List.length_map, List.length_range]
  exact Nat.le_of_lt_succ ((Nat.log2_lt (Nat.succ_ne_zero k)).2 (by omega))

/-- A value is sent as ONE, or as its class and its offset in the class (R101). -/
theorem sendValOp_eq {v : Nat} (hv : v ≠ 0) : sendValOp v = encodeItems (valueItems v) := by
  rw [sendValOp, if_neg hv, valueItems]
  split
  · exact (encodeItems_singleton _ _).symm
  · rw [encodeItems_cons, encodeItems_singleton]
    rfl

theorem itemOk_valueItems {v : Nat} (hv : v ≠ 0) (h255 : v < 256) :
    ∀ item ∈ valueItems v, itemOk item := by
  unfold valueItems
  split
  · simp only [List.forall_mem_singleton]
    exact itemOk_basis (by decide)
  next h1 =>
    have hlog : 1 ≤ Nat.log2 v := (Nat.le_log2 hv).2 (by omega)
    have hlog7 : Nat.log2 v ≤ 7 := Nat.le_of_lt_succ ((Nat.log2_lt hv).2 h255)
    have hclass : numSymbols (Fin.ofNat 9 (Nat.log2 v)) = 2 ^ Nat.log2 v :=
      numSymbols_classModel hlog hlog7
    have hlt : v < 2 ^ (Nat.log2 v + 1) := Nat.lt_log2_self
    simp only [List.forall_mem_cons, List.not_mem_nil, itemOk, hclass]
    rw [pow_succ] at hlt
    have hpow := Nat.one_le_two_pow (n := Nat.log2 v)
    exact ⟨itemOk_basis (by omega), by omega, nofun⟩

theorem length_valueItems_le (v : Nat) : (valueItems v).length ≤ 2 := by
  unfold valueItems
  split
  · exact Nat.le_succ 1
  · exact le_rfl

/-- A row of format BASIS sent by itself (log entry 12). -/
theorem exec_basisRow_sent {s : State} (hm : s.mode ≠ .decompress) {i : Instr} {sym : Nat}
    (h : (i, sym) ∈ basisRows) :
    exec i s = perform (encodeItems [(basisModel, sym)]) s ∧ itemOk (basisModel, sym) := by
  have hop : exec i s = perform (basisOp sym) s ∧ sym < 11 := by
    simp only [basisRows, List.mem_cons, List.not_mem_nil, or_false, Prod.mk.injEq] at h
    rcases h with ⟨rfl, rfl⟩ | ⟨rfl, rfl⟩ | ⟨rfl, rfl⟩ | ⟨rfl, rfl⟩ | ⟨rfl, rfl⟩ | ⟨rfl, rfl⟩ |
      ⟨rfl, rfl⟩ | ⟨rfl, rfl⟩ | ⟨rfl, rfl⟩ | ⟨rfl, rfl⟩ | ⟨rfl, rfl⟩
    all_goals exact ⟨rfl, by decide⟩
  obtain ⟨hexec, hsym⟩ := hop
  rw [encodeItems_singleton]
  exact ⟨hexec.trans (perform_sent hm _ _), itemOk_basis hsym⟩

/-- Settles O49: each send is `encodeItems` of its symbols, all of them symbols of their models. -/
theorem sendsAreEncodings : Obligations.SendsAreEncodings := by
  intro s hs
  have hword (i : Instr) (w : Word) (hexec : exec i s = perform (putU32Op w) s) (henc : encoderOk 4 s) :
      sends i (wordItems w) s :=
    sends_of_encodeItems hs (putU32Op_eq w ▸ hexec) (itemOk_wordItems w) le_rfl henc
  refine ⟨fun w => hword _ w rfl, fun k => ?_, fun v hv => ?_, rfl, fun henc => ?_, fun hm => ⟨?_, ?_⟩⟩
  · have hexec : exec (.mtfSendZeroes k) s = perform (sendZeroesOp k) s := rfl
    rw [sendZeroesOp_eq] at hexec
    exact sends_of_encodeItems hs hexec (itemOk_runItems _) (length_runItems_le k.isLt)
  · have hne : v.toNat ≠ 0 := fun h0 => hv (BitVec.eq_of_toNat_eq h0)
    have hexec : exec (.mtfSendVal v) s = perform (sendValOp v.toNat) s := rfl
    rw [sendValOp_eq hne] at hexec
    exact sends_of_encodeItems hs hexec (itemOk_valueItems hne v.isLt) (length_valueItems_le _)
  · have hexec : exec .mtfSendEob s = perform (encodeOp basisModel 10) s := rfl
    rw [← encodeItems_singleton] at hexec
    exact sends_of_encodeItems hs hexec (List.forall_mem_singleton.2 (itemOk_basis (by decide))) le_rfl
      henc
  · intro i sym h henc
    obtain ⟨hexec, hok⟩ := exec_basisRow_sent hm h
    exact sends_of_encodeItems hs hexec (List.forall_mem_singleton.2 hok) le_rfl henc
  · intro w henc
    exact ⟨hword (.streamOrigword w) w (perform_sent hm _ _) henc,
      hword (.streamCrc32 w) w (perform_sent hm _ _) henc⟩

end Sys2Proof.Machine
end

/-! PROOFS. The family `42_arith_coder.md`, the decoder in exact numbers (O53, O54): the symbol whose range
holds the target, the bits its doublings pull, and the integers read through BOGUS. -/
section
namespace Sys2Proof.Machine

/-! ## The scan for a symbol (R166 step 2) -/

/-- The scan answers the one symbol whose range holds the target. -/
theorem findSymbol_eq_some {target : Word} {l : List Word} {i k : Nat} {start : Word}
    (hi : i < l.length) (hfit : start.toNat + (l.map BitVec.toNat).sum < 2 ^ 32)
    (hlow : start.toNat + ((l.take i).map BitVec.toNat).sum ≤ target.toNat)
    (hhigh : target.toNat < start.toNat + ((l.take i).map BitVec.toNat).sum + (l.getD i 0#32).toNat) :
    findSymbol target l k start = some (k + i, start + sumWords (l.take i), l.getD i 0#32) := by
  induction l generalizing i k start with
  | nil => exact absurd hi (Nat.not_lt_zero _)
  | cons f rest ih =>
    simp only [List.map_cons, List.sum_cons] at hfit
    have hsum : (start + f).toNat = start.toNat + f.toNat := by
      rw [BitVec.toNat_add]
      exact Nat.mod_eq_of_lt (by omega)
    rw [findSymbol]
    cases i with
    | zero =>
      simp only [List.take_zero, List.map_nil, List.sum_nil, List.getD_cons_zero] at hhigh
      rw [if_neg (by rw [BitVec.le_def, hsum]; omega), List.take_zero, sumWords, BitVec.add_zero]
      rfl
    | succ i =>
      simp only [List.take_succ_cons, List.map_cons, List.sum_cons, List.getD_cons_succ] at hlow hhigh
      rw [if_pos (by rw [BitVec.le_def, hsum]; omega),
        ih (Nat.lt_of_succ_lt_succ hi) (by omega) (by omega) (by omega)]
      rw [List.take_succ_cons, sumWords, BitVec.add_assoc, List.getD_cons_succ, Nat.add_right_comm,
        Nat.add_assoc]

/-- Some symbol's range holds any target below the total. -/
theorem exists_sum_take_le {target : Nat} {l : List Nat} (h : target < l.sum) :
    ∃ i, i < l.length ∧ (l.take i).sum ≤ target ∧ target < (l.take i).sum + l.getD i 0 := by
  induction l generalizing target with
  | nil => exact absurd h (Nat.not_lt_zero _)
  | cons f rest ih =>
    rw [List.sum_cons] at h
    by_cases hf : target < f
    · exact ⟨0, by simp, by simp, by simpa using hf⟩
    · obtain ⟨i, hi, hlow, hhigh⟩ := ih (target := target - f) (by omega)
      refine ⟨i + 1, by simpa using hi, ?_, ?_⟩ <;>
        simp only [List.take_succ_cons, List.sum_cons, List.getD_cons_succ] <;> omega

/-- The range of symbol `sym` holds the decoder's target. -/
def holdsTarget (s : State) (fm : FreqModel) (sym : Nat) : Prop :=
  lowCumNat fm sym ≤ targetOf s fm ∧ targetOf s fm < lowCumNat fm sym + freqNat fm sym

theorem exists_holdsTarget {s : State} (hs : modelsOk s) (m : ModelId) :
    ∃ sym, sym < numSymbols m ∧ holdsTarget s (modelAt s m) sym := by
  have hm : modelOk s.par m (modelAt s m) := hs.model m
  have hpos := hm.totFreq_pos hs.params
  obtain ⟨hlen, -, htot, -, -⟩ := hm
  have htarget : targetOf s (modelAt s m) < ((modelAt s m).freq.map BitVec.toNat).sum := by
    rw [← htot, targetOf]
    omega
  obtain ⟨i, hi, hlow, hhigh⟩ := exists_sum_take_le htarget
  rw [← List.map_take] at hlow hhigh
  rw [List.length_map, hlen] at hi
  exact ⟨i, hi, hlow, hhigh⟩

namespace SymbolPart

variable {s : State} {fm : FreqModel} {sym : Nat} (h : SymbolPart s fm sym)
include h

theorem toNat_decTarget : (decTarget fm.totFreq (s.r / fm.totFreq) s.d).toNat = targetOf s fm := by
  have hdiv : (s.d / (s.r / fm.totFreq)).toNat = s.d.toNat / stepOf s fm := by
    rw [BitVec.toNat_udiv, BitVec.toNat_udiv, stepOf]
  have hone : (fm.totFreq - 1#32).toNat = fm.totFreq.toNat - 1 := by
    have := h.part_le
    have := h.freq_pos
    exact BitVec.toNat_sub_of_le (by rw [BitVec.le_def, BitVec.toNat_ofNat]; omega)
  unfold decTarget targetOf
  split
  next hle =>
    rw [BitVec.le_def, hone, hdiv] at hle
    rw [hone, Nat.min_eq_left hle]
  next hle =>
    rw [BitVec.le_def, hone, hdiv] at hle
    rw [hdiv, Nat.min_eq_right (by omega)]

/-- Below R the code value lies in the part of the symbol that holds its target (R167). -/
theorem code_in_part (hd : s.d.toNat < s.r.toNat) (ht : holdsTarget s fm sym) :
    stepOf s fm * lowCumNat fm sym ≤ s.d.toNat ∧
      s.d.toNat < stepOf s fm * lowCumNat fm sym + narrowedRange s fm sym := by
  obtain ⟨hlow, hhigh⟩ := ht
  have hstep := h.step_pos
  have hle := h.low_add_narrowed_le
  have hge : stepOf s fm * lowCumNat fm sym ≤ s.d.toNat := by
    rw [Nat.mul_comm, ← Nat.le_div_iff_mul_le hstep]
    exact hlow.trans (Nat.min_le_right _ _)
  refine ⟨hge, ?_⟩
  unfold narrowedRange at hle ⊢
  split
  next hlast =>
    have hdiv : s.d.toNat / stepOf s fm < lowCumNat fm sym + freqNat fm sym := by
      unfold targetOf at hhigh
      omega
    rw [Nat.div_lt_iff_lt_mul hstep] at hdiv
    linarith
  next hlast =>
    rw [if_neg hlast] at hle
    omega

/-- And a code value in the part of a symbol has its target there. -/
theorem holdsTarget_of_code (hlow : stepOf s fm * lowCumNat fm sym ≤ s.d.toNat)
    (hhigh : s.d.toNat < stepOf s fm * lowCumNat fm sym + narrowedRange s fm sym) :
    holdsTarget s fm sym := by
  have hstep := h.step_pos
  have hpart := h.part_le
  have hpos := h.freq_pos
  rw [Nat.mul_comm, ← Nat.le_div_iff_mul_le hstep] at hlow
  refine ⟨Nat.le_min.2 ⟨by omega, hlow⟩, ?_⟩
  unfold narrowedRange at hhigh
  unfold targetOf
  split at hhigh
  next hlast =>
    have hdiv : s.d.toNat / stepOf s fm < lowCumNat fm sym + freqNat fm sym := by
      rw [Nat.div_lt_iff_lt_mul hstep]
      linarith
    omega
  next hlast => omega

end SymbolPart

/-! ## Pulling a bit a doubling -/

section Renorm

variable {s : State}

theorem decRenormLoop_done (fuel : Nat) (hq : ¬ s.r ≤ quarter) :
    decRenormLoop (fuel + 1) s = .ok () s := by
  simp only [decRenormLoop, seq_bind, seq_get, hq, if_false, seq_pure]

theorem decRenormLoop_cons (fuel : Nat) (hq : s.r ≤ quarter) {b : Bool} {rest : List Bool}
    (hb : s.bitIn = b :: rest) :
    decRenormLoop (fuel + 1) s =
      decRenormLoop fuel { s with r := s.r <<< 1, d := shiftIn s.d b, bitIn := rest } := by
  simp only [decRenormLoop, seq_bind, seq_get, hq, if_true, pullBit_cons hb, seq_modify]
  rfl

theorem decRenormLoop_nil (fuel : Nat) (hq : s.r ≤ quarter) (hb : s.bitIn = []) :
    decRenormLoop (fuel + 1) s = .error (bitStop s.bitInEod) s := by
  simp only [decRenormLoop, seq_bind, seq_get, hq, if_true, pullBit_nil hb]

/-- The state after the doublings that pull `bits` and leave `rest` in the port. -/
def decDoubled (bits rest : List Bool) (s : State) : State :=
  { s with r := BitVec.ofNat 32 (s.r.toNat * 2 ^ bits.length), d := bits.foldl shiftIn s.d, bitIn := rest }

theorem decRenormLoop_apply {bits rest : List Bool} {fuel : Nat} (hfuel : bits.length < fuel)
    (hb : s.bitIn = bits ++ rest) (hr : Renorms s.r.toNat bits.length) :
    decRenormLoop fuel s = .ok () (decDoubled bits rest s) := by
  obtain ⟨fuel, rfl⟩ := Nat.exists_eq_succ_of_ne_zero (Nat.ne_of_gt (Nat.zero_lt_of_lt hfuel))
  induction bits generalizing fuel s with
  | nil =>
    have hq : ¬ s.r ≤ quarter := by
      rw [BitVec.le_def]
      simpa using hr.1
    rw [List.nil_append] at hb
    rw [decRenormLoop_done _ hq, decDoubled, List.length_nil, pow_zero, Nat.mul_one, BitVec.ofNat_toNat,
      BitVec.setWidth_eq, ← hb]
    rfl
  | cons b bits ih =>
    obtain ⟨hlo, hhi⟩ := hr
    have hpow : s.r.toNat * 2 ^ (bits.length + 1) = 2 * s.r.toNat * 2 ^ bits.length := by ring
    rw [List.length_cons, hpow] at hlo hhi
    have hq : s.r.toNat ≤ quarter.toNat := by
      have := Nat.le_mul_of_pos_right (2 * s.r.toNat) (Nat.two_pow_pos bits.length)
      rw [toNat_half] at hhi
      rw [toNat_quarter]
      omega
    have hdouble := toNat_shiftLeft_one_of_le_quarter (BitVec.le_def.2 hq)
    obtain ⟨fuel, rfl⟩ := Nat.exists_eq_add_of_lt (Nat.lt_of_succ_lt_succ hfuel)
    rw [decRenormLoop_cons _ (BitVec.le_def.2 hq) hb]
    refine (ih (s := { s with r := s.r <<< 1, d := shiftIn s.d b, bitIn := bits ++ rest }) rfl
      (by simp only [hdouble]; exact ⟨hlo, hhi⟩) _ (by omega)).trans ?_
    simp only [decDoubled, hdouble, List.length_cons, hpow, List.foldl_cons]

end Renorm

/-! ## Decoding a symbol (R166) -/

/-- The interval of symbol `sym` taken out of the decoder's. -/
def decNarrowed (fm : FreqModel) (sym : Nat) (s : State) : State :=
  { s with
    d := s.d - s.r / fm.totFreq * lowCum fm sym
    r := narrowed s.r fm.totFreq (lowCum fm sym) (freqAt fm sym) }

theorem findSymbol_of_holdsTarget {s : State} (hs : modelsOk s) {m : ModelId} {sym : Nat}
    (hsym : sym < numSymbols m) (hpart : SymbolPart s (modelAt s m) sym)
    (ht : holdsTarget s (modelAt s m) sym) :
    findSymbol (decTarget (modelAt s m).totFreq (s.r / (modelAt s m).totFreq) s.d) (modelAt s m).freq 0
        0#32 = some (sym, lowCum (modelAt s m) sym, freqAt (modelAt s m) sym) := by
  obtain ⟨hlow, hhigh⟩ := ht
  have hm : modelOk s.par m (modelAt s m) := hs.model m
  obtain ⟨hlen, -, htot, -, -⟩ := hm
  have hle := hpart.tot_le
  rw [toNat_quarter] at hle
  have hzero : (0#32).toNat = 0 := rfl
  have htarget := hpart.toNat_decTarget
  have hfreq : ((modelAt s m).freq.getD sym 0#32).toNat = freqNat (modelAt s m) sym :=
    toNat_freqAt _ _
  have hfit : (0#32).toNat + ((modelAt s m).freq.map BitVec.toNat).sum < 2 ^ 32 := by
    rw [hzero, ← htot]
    omega
  generalize decTarget (modelAt s m).totFreq (s.r / (modelAt s m).totFreq) s.d = target at *
  have hfind := findSymbol_eq_some (target := target) (k := 0) (by rwa [← hlen] at hsym) hfit
    (by rw [hzero, Nat.zero_add, htarget]; exact hlow)
    (by rw [hzero, Nat.zero_add, htarget, hfreq]; exact hhigh)
  rw [BitVec.zero_add, Nat.zero_add] at hfind
  exact hfind

theorem decodeOp_eq {s : State} (hs : modelsOk s) {m : ModelId} {sym : Nat} (hsym : sym < numSymbols m)
    (hpart : SymbolPart s (modelAt s m) sym) (ht : holdsTarget s (modelAt s m) sym) :
    decodeOp m s =
      (do decRenormOp; modelUpdateOp m sym; pure sym) (decNarrowed (modelAt s m) sym s) := by
  have hfind := findSymbol_of_holdsTarget hs hsym hpart ht
  have hstep : s.r / (modelAt s m).totFreq ≠ 0#32 := fun h0 => by
    have hdiv : (s.r / (modelAt s m).totFreq).toNat = stepOf s (modelAt s m) := BitVec.toNat_udiv
    have hpos := hpart.step_pos
    rw [← hdiv, h0] at hpos
    exact absurd hpos (by decide)
  have hread : readModel m s = .ok (modelAt s m) s := readModel_apply m s
  rw [decodeOp, seq_bind_of_ok hread, seq_bind_of_ok (seq_get s)]
  simp only [hpart.tot_ne, hstep, if_false, hfind]
  rfl

/-- `t` is `s` with the symbol `sym` of model `m` decoded, in one doubling for each of the `bits` pulled. -/
structure Decoded (m : ModelId) (sym : Nat) (bits : List Bool) (s t : State) : Prop where
  frame : t = { s with r := t.r, d := t.d, bitIn := t.bitIn, models := t.models }
  pulled : s.bitIn = bits ++ t.bitIn
  range : t.r.toNat = narrowedRange s (modelAt s m) sym * 2 ^ bits.length
  inRange : rangeOk t
  code : t.d =
    (s.d - BitVec.ofNat 32 (stepOf s (modelAt s m) * lowCumNat (modelAt s m) sym)) *
        BitVec.ofNat 32 (2 ^ bits.length) + BitVec.ofNat 32 (bitsValue bits)
  models : t.models = s.models.set m.val (updatedModel s.par m (modelAt s m) sym)

/-- The state after `ac.decode` returned `sym` and pulled `bits`, with `rest` left in the port. -/
def afterDecode (m : ModelId) (sym : Nat) (bits rest : List Bool) (s : State) : State :=
  { decDoubled bits rest (decNarrowed (modelAt s m) sym s) with
    models := s.models.set m.val (updatedModel s.par m (modelAt s m) sym) }

theorem decodeOp_apply {s : State} (hs : modelsOk s) {m : ModelId} {sym : Nat} {bits rest : List Bool}
    (hsym : sym < numSymbols m) (hpart : SymbolPart s (modelAt s m) sym)
    (ht : holdsTarget s (modelAt s m) sym) (hb : s.bitIn = bits ++ rest)
    (hr : Renorms (narrowedRange s (modelAt s m) sym) bits.length) :
    decodeOp m s = .ok sym (afterDecode m sym bits rest s) := by
  have hloop : decRenormOp (decNarrowed (modelAt s m) sym s) =
      .ok () (decDoubled bits rest (decNarrowed (modelAt s m) sym s)) := by
    rw [decRenormOp, seq_bind_of_ok (seq_get _)]
    refine decRenormLoop_apply ?_ hb (by rwa [decNarrowed, hpart.toNat_narrowed])
    have hlen : (decNarrowed (modelAt s m) sym s).bitIn.length = bits.length + rest.length := by
      rw [decNarrowed, hb, List.length_append]
    omega
  rw [decodeOp_eq hs hsym hpart ht, seq_bind_of_ok hloop, seq_bind_of_ok (modelUpdateOp_of_lt hsym _)]
  rfl

theorem decoded_afterDecode {s : State} {m : ModelId} {sym : Nat} {bits rest : List Bool}
    (hpart : SymbolPart s (modelAt s m) sym) (hb : s.bitIn = bits ++ rest)
    (hr : Renorms (narrowedRange s (modelAt s m) sym) bits.length) :
    Decoded m sym bits s (afterDecode m sym bits rest s) := by
  obtain ⟨hlo, hhi⟩ := hr
  have hrange : (afterDecode m sym bits rest s).r.toNat =
      narrowedRange s (modelAt s m) sym * 2 ^ bits.length := by
    rw [afterDecode, decDoubled, decNarrowed, hpart.toNat_narrowed, BitVec.toNat_ofNat]
    rw [toNat_half] at hhi
    exact Nat.mod_eq_of_lt (by omega)
  refine ⟨rfl, hb, hrange, ⟨?_, ?_⟩, ?_, rfl⟩
  · rw [BitVec.lt_def, hrange]
    exact hlo
  · rw [BitVec.le_def, hrange]
    exact hhi
  · rw [← hpart.toNat_step_mul_low, BitVec.ofNat_toNat, BitVec.setWidth_eq]
    exact foldl_shiftIn _ _

namespace Decoded

variable {s t : State} {m : ModelId} {sym : Nat} {bits : List Bool} (h : Decoded m sym bits s t)
include h

theorem par_eq : t.par = s.par := by rw [h.frame]

theorem renorms : Renorms (narrowedRange s (modelAt s m) sym) bits.length := by
  obtain ⟨hlo, hhi⟩ := h.inRange
  rw [Renorms, ← h.range]
  exact ⟨BitVec.lt_def.1 hlo, BitVec.le_def.1 hhi⟩

theorem modelUpdate_next (hsym : sym < numSymbols m) :
    exec (.modelUpdate m sym) s = .next { s with models := t.models } := by
  rw [exec_modelUpdate_of_lt hsym, h.models]

theorem modelsOk (hs : Machine.modelsOk s) (hsym : sym < numSymbols m) : Machine.modelsOk t :=
  hs.updated hsym h.models h.par_eq

/-- A code value within the symbol's part carries out of no word, and stays below R (R167). -/
theorem toNat_code
    (hlow : stepOf s (modelAt s m) * lowCumNat (modelAt s m) sym ≤ s.d.toNat)
    (hhigh : s.d.toNat < stepOf s (modelAt s m) * lowCumNat (modelAt s m) sym +
      narrowedRange s (modelAt s m) sym) :
    t.d.toNat =
        (s.d.toNat - stepOf s (modelAt s m) * lowCumNat (modelAt s m) sym) * 2 ^ bits.length +
          bitsValue bits ∧
      t.d.toNat < t.r.toNat := by
  obtain ⟨-, hhi⟩ := h.renorms
  have hcode := congrArg BitVec.toNat h.code
  have hd := s.d.isLt
  have hbits := bitsValue_lt bits
  generalize stepOf s (modelAt s m) * lowCumNat (modelAt s m) sym = low at *
  obtain ⟨x, hx⟩ := Nat.exists_eq_add_of_le hlow
  have hlow' : (BitVec.ofNat 32 low).toNat = low := by
    rw [BitVec.toNat_ofNat]
    exact Nat.mod_eq_of_lt (by omega)
  have hsub : (s.d - BitVec.ofNat 32 low).toNat = x := by
    rw [BitVec.toNat_sub_of_le (by rw [BitVec.le_def, hlow']; exact hlow), hlow']
    omega
  have hfit : x * 2 ^ bits.length + bitsValue bits <
      narrowedRange s (modelAt s m) sym * 2 ^ bits.length := by
    have hmul : (x + 1) * 2 ^ bits.length ≤ narrowedRange s (modelAt s m) sym * 2 ^ bits.length :=
      Nat.mul_le_mul_right _ (by omega)
    linarith
  have hvalue : t.d.toNat = x * 2 ^ bits.length + bitsValue bits := by
    rw [toNat_half] at hhi
    rw [hcode, BitVec.toNat_add, BitVec.toNat_mul, hsub, BitVec.toNat_ofNat, BitVec.toNat_ofNat]
    rw [Nat.mul_mod_mod, Nat.mod_add_mod, Nat.add_mod_mod]
    exact Nat.mod_eq_of_lt (by omega)
  rw [hvalue, h.range]
  exact ⟨by rw [hx, Nat.add_sub_cancel_left], hfit⟩

end Decoded

/-- With 25 bits in the port a symbol is decoded, whatever the code value. -/
theorem decodeOp_decodes {s : State} (hs : modelsOk s) (hr : rangeOk s) (hb : 25 ≤ s.bitIn.length)
    (m : ModelId) :
    ∃ t sym bits, decodeOp m s = .ok sym t ∧ Decoded m sym bits s t ∧ bits.length ≤ 25 ∧
      sym < numSymbols m ∧ holdsTarget s (modelAt s m) sym := by
  obtain ⟨sym, hsym, ht⟩ := exists_holdsTarget hs m
  have hpart := symbolPart_of_modelsOk hs hr hsym
  have hle := hpart.low_add_narrowed_le
  have hr_le := hpart.r_le
  obtain ⟨j, hj, hrenorms⟩ := exists_renorms_of_pos hpart.narrowedRange_pos (by rw [toNat_half]; omega)
  have hsplit := (List.take_append_drop j s.bitIn).symm
  have hlen : (s.bitIn.take j).length = j := by
    rw [List.length_take]
    omega
  rw [← hlen] at hrenorms
  exact ⟨_, sym, s.bitIn.take j, decodeOp_apply hs hsym hpart ht hsplit hrenorms,
    decoded_afterDecode hpart hsplit hrenorms, by omega, hsym, ht⟩

theorem exec_acDecode (m : ModelId) (s : State) :
    exec (.acDecode m) s = performValue (fun sym => [BitVec.ofNat 32 sym]) (decodeOp m) s := rfl

/-- Settles O53, by the scan for the target and the doublings, each pulling a bit. -/
theorem decodeReturnsTheSymbol : Obligations.DecodeReturnsTheSymbol := by
  intro s m hs hr hb
  obtain ⟨t, sym, bits, hop, h, hlen, hsym, ht⟩ := decodeOp_decodes hs hr hb m
  have hpart := symbolPart_of_modelsOk hs hr hsym
  have htake : s.bitIn.take bits.length = bits := by rw [h.pulled, List.take_left]
  have hdrop : s.bitIn.drop bits.length = t.bitIn := by rw [h.pulled, List.drop_left]
  obtain ⟨hlow, hhigh⟩ := ht
  refine ⟨{ t with result := [BitVec.ofNat 32 sym] }, sym, bits.length,
    (exec_acDecode m s).trans (performValue_of_ok hop), ?_, hsym, hlow, hhigh, hlen, h.inRange, h.range,
    ?_, fun hd => ?_, h.modelUpdate_next hsym⟩
  · rw [hdrop, h.frame]
  · rw [htake]
    exact h.code
  · obtain ⟨hge, hlt⟩ := hpart.code_in_part (BitVec.lt_def.1 hd) ⟨hlow, hhigh⟩
    exact BitVec.lt_def.2 (h.toNat_code hge hlt).2

/-! ## Sequences of symbols and integers (R171, R172) -/

theorem decodeItems_cons (m : ModelId) (rest : List ModelId) :
    decodeItems (m :: rest) =
      (do let sym ← decodeOp m; let syms ← decodeItems rest; pure (sym :: syms)) := rfl

theorem decodeItems_cons_of_ok {m : ModelId} {rest : List ModelId} {s t u : State} {sym : Nat}
    {syms : List Nat} (h : decodeOp m s = .ok sym t) (hrest : decodeItems rest t = .ok syms u) :
    decodeItems (m :: rest) s = .ok (sym :: syms) u := by
  rw [decodeItems_cons, seq_bind_of_ok h, seq_bind_of_ok hrest]
  rfl

theorem decodeItems_cons_ok {m : ModelId} {rest : List ModelId} {s u : State} {out : List Nat}
    (h : decodeItems (m :: rest) s = .ok out u) :
    ∃ sym syms t, out = sym :: syms ∧ decodeOp m s = .ok sym t ∧ decodeItems rest t = .ok syms u := by
  rw [decodeItems_cons] at h
  obtain ⟨sym, t, ht, h⟩ := (seq_bind_ok_iff ..).1 h
  obtain ⟨syms, v, hv, h⟩ := (seq_bind_ok_iff ..).1 h
  cases h
  exact ⟨sym, syms, t, rfl, ht, hv⟩

/-- With 25 bits in the port for each symbol a sequence is decoded, one symbol of its model each. -/
theorem decodeItems_decodes {ms : List ModelId} {s : State} (hs : modelsOk s) (hr : rangeOk s)
    (hb : 25 * ms.length ≤ s.bitIn.length) :
    ∃ syms u, decodeItems ms s = .ok syms u ∧
      u = { s with r := u.r, d := u.d, bitIn := u.bitIn, models := u.models } ∧
      List.Forall₂ (fun m sym => sym < numSymbols m) ms syms := by
  induction ms generalizing s with
  | nil => exact ⟨[], s, rfl, rfl, .nil⟩
  | cons m rest ih =>
    rw [List.length_cons] at hb
    obtain ⟨t, sym, bits, hop, h, hlen, hsym, -⟩ := decodeOp_decodes hs hr (by omega) m
    have hpulled := congrArg List.length h.pulled
    rw [List.length_append] at hpulled
    obtain ⟨syms, u, hrest, hframe, hall⟩ := ih (h.modelsOk hs hsym) h.inRange (by omega)
    refine ⟨sym :: syms, u, decodeItems_cons_of_ok hop hrest, ?_, .cons hsym hall⟩
    rw [hframe, h.frame]

theorem getU8Op_of_decodeOp {s u : State} {b : Byte} (h : decodeOp bogusModel s = .ok b.toNat u) :
    getU8Op s = .ok b u := by
  rw [getU8Op, seq_bind_of_ok h, BitVec.ofNat_toNat, BitVec.setWidth_eq]
  rfl

/-- The four bytes of a word, put together again (R69, R172). -/
theorem joinBytes_extractLsb' (w : Word) :
    joinBytes (w.extractLsb' 24 8) (w.extractLsb' 16 8) (w.extractLsb' 8 8) (w.extractLsb' 0 8) = w := by
  refine BitVec.eq_of_getLsbD_eq fun i hi => ?_
  simp only [joinBytes, BitVec.getLsbD_append, BitVec.getLsbD_extractLsb']
  grind

theorem map_snd_wordItems (w : Word) : (wordItems w).map Prod.snd = (fieldBytes w).map BitVec.toNat := by
  rw [wordItems_eq, List.map_map]
  rfl

/-- A symbol of BOGUS is a byte. -/
theorem exists_byte {syms : List Nat}
    (h : List.Forall₂ (fun m sym => sym < numSymbols m) [bogusModel] syms) :
    ∃ b : Byte, [b.toNat] = syms := by
  obtain _ | ⟨hsym, ⟨⟩⟩ := h
  exact ⟨BitVec.ofNat 8 _, congrArg (fun n => [n]) ((BitVec.toNat_ofNat ..).trans (Nat.mod_eq_of_lt hsym))⟩

/-- Four symbols of BOGUS are those of one word. -/
theorem exists_wordItems {syms : List Nat}
    (h : List.Forall₂ (fun m sym => sym < numSymbols m)
      [bogusModel, bogusModel, bogusModel, bogusModel] syms) :
    ∃ w, (wordItems w).map Prod.snd = syms := by
  obtain _ | ⟨h3, _ | ⟨h2, _ | ⟨h1, _ | ⟨h0, ⟨⟩⟩⟩⟩⟩ := h
  rename_i b3 b2 b1 b0
  have h256 : numSymbols bogusModel = 256 := rfl
  rw [h256] at h3 h2 h1 h0
  refine ⟨BitVec.ofNat 32 (b3 * 2 ^ 24 + b2 * 2 ^ 16 + b1 * 2 ^ 8 + b0), ?_⟩
  simp only [wordItems, List.map_cons, List.map_nil, BitVec.toNat_ofNat]
  rw [Nat.mod_eq_of_lt (by omega)]
  simp only [List.cons.injEq, and_true]
  exact ⟨by omega, by omega, by omega, by omega⟩

/-- `ac.get_u32` is the word whose symbols the port holds (R172). -/
theorem getU32Op_of_decodeItems {s u : State} {w : Word}
    (h : decodeItems [bogusModel, bogusModel, bogusModel, bogusModel] s =
      .ok ((wordItems w).map Prod.snd) u) : getU32Op s = .ok w u := by
  rw [map_snd_wordItems] at h
  obtain ⟨b3, rest, t3, hout, h3, h⟩ := decodeItems_cons_ok h
  obtain ⟨rfl, rfl⟩ := List.cons.inj hout
  obtain ⟨b2, rest, t2, hout, h2, h⟩ := decodeItems_cons_ok h
  obtain ⟨rfl, rfl⟩ := List.cons.inj hout
  obtain ⟨b1, rest, t1, hout, h1, h⟩ := decodeItems_cons_ok h
  obtain ⟨rfl, rfl⟩ := List.cons.inj hout
  obtain ⟨b0, rest, t0, hout, h0, h⟩ := decodeItems_cons_ok h
  obtain ⟨rfl, rfl⟩ := List.cons.inj hout
  cases h
  rw [getU32Op, seq_bind_of_ok (getU8Op_of_decodeOp h3), seq_bind_of_ok (getU8Op_of_decodeOp h2),
    seq_bind_of_ok (getU8Op_of_decodeOp h1), seq_bind_of_ok (getU8Op_of_decodeOp h0),
    joinBytes_extractLsb']
  rfl

/-! ## A source that has ended (R343) -/

/-- BOGUS is uniform, so each of its symbols takes at most a 128th of the range and needs a doubling (R169). -/
theorem narrowedRange_bogus_le {s : State} (hs : modelsOk s) {sym : Nat}
    (hsym : sym < numSymbols bogusModel) (hpart : SymbolPart s (modelAt s bogusModel) sym) :
    narrowedRange s (modelAt s bogusModel) sym ≤ quarter.toNat := by
  have hm : modelOk s.par bogusModel (modelAt s bogusModel) := hs.model bogusModel
  obtain ⟨hlen, -, htot, -, hones⟩ := hm
  have hall : (modelAt s bogusModel).freq = List.replicate 256 1#32 :=
    List.eq_replicate_iff.2 ⟨hlen, hones rfl⟩
  have htot256 : (modelAt s bogusModel).totFreq.toNat = 256 := by
    rw [htot, hall, List.map_replicate, List.sum_replicate]
    rfl
  have hfreq : freqNat (modelAt s bogusModel) sym = 1 := by
    have hsym256 : sym < 256 := hsym
    rw [← toNat_freqAt, freqAt, hall, List.getD_replicate _ hsym256]
    rfl
  have hr := hpart.r_le
  have hle := hpart.part_le
  have hstep : stepOf s (modelAt s bogusModel) = s.r.toNat / 256 := by rw [stepOf, htot256]
  unfold narrowedRange
  rw [hfreq, htot256, toNat_quarter, hstep] at *
  split
  · omega
  next hlast =>
    have hlow : lowCumNat (modelAt s bogusModel) sym = 255 := by omega
    rw [hlow]
    omega

theorem decodeOp_bogus_truncated {s : State} (hs : modelsOk s) (hr : rangeOk s) (hb : s.bitIn = [])
    (heod : s.bitInEod = true) :
    ∃ t, decodeOp bogusModel s = .error (.raise .truncated) t ∧ t = { s with r := t.r, d := t.d } := by
  obtain ⟨sym, hsym, ht⟩ := exists_holdsTarget hs bogusModel
  have hpart := symbolPart_of_modelsOk hs hr hsym
  have hq : (decNarrowed (modelAt s bogusModel) sym s).r ≤ quarter := by
    rw [BitVec.le_def, decNarrowed, hpart.toNat_narrowed]
    exact narrowedRange_bogus_le hs hsym hpart
  have hloop := decRenormLoop_nil (s := decNarrowed (modelAt s bogusModel) sym s) s.bitIn.length hq hb
  have hstop : bitStop (decNarrowed (modelAt s bogusModel) sym s).bitInEod = .raise .truncated :=
    if_pos heod
  rw [hstop] at hloop
  refine ⟨decNarrowed (modelAt s bogusModel) sym s, ?_, rfl⟩
  have hrenorm : decRenormOp (decNarrowed (modelAt s bogusModel) sym s) = _ := hloop
  rw [decodeOp_eq hs hsym hpart ht, seq_bind, hrenorm]

theorem exec_acGetU8 (s : State) :
    exec .acGetU8 s = performValue (fun b => [b.zeroExtend 32]) getU8Op s := rfl

theorem exec_acGetU32 (s : State) : exec .acGetU32 s = performValue (fun w => [w]) getU32Op s := rfl

theorem performValue_faulted {α : Type} {g : α → List Word} {op : Seq α} {s t : State} {f : FaultCode}
    (h : op s = .error (.raise f) t) : performValue g op s = .next (faulted (faultCodeBits f) t) :=
  perform_faulted (by rw [seq_bind, h])

/-- Settles O54: an integer is the one or four symbols of BOGUS that the port holds, and on an ended source the
first symbol raises TRUNCATED. -/
theorem integersAreRead : Obligations.IntegersAreRead := by
  intro s hs hr
  simp only [exec_acGetU8, exec_acGetU32]
  refine ⟨fun hb => ?_, fun hb => ?_, fun hb heod => ?_⟩
  · obtain ⟨syms, u, hop, hframe, hall⟩ := decodeItems_decodes (ms := [bogusModel]) hs hr hb
    obtain ⟨b, rfl⟩ := exists_byte hall
    obtain ⟨sym, rest, t, hout, hsym, hrest⟩ := decodeItems_cons_ok hop
    obtain ⟨rfl, rfl⟩ := List.cons.inj hout
    cases hrest
    exact ⟨b, u, hop, hframe, performValue_of_ok (getU8Op_of_decodeOp hsym)⟩
  · obtain ⟨syms, u, hop, hframe, hall⟩ :=
      decodeItems_decodes (ms := [bogusModel, bogusModel, bogusModel, bogusModel]) hs hr hb
    obtain ⟨w, rfl⟩ := exists_wordItems hall
    exact ⟨w, u, hop, hframe, performValue_of_ok (getU32Op_of_decodeItems hop)⟩
  · obtain ⟨t, hop, hframe⟩ := decodeOp_bogus_truncated hs hr hb heod
    have hbyte : getU8Op s = .error (.raise .truncated) t := by rw [getU8Op, seq_bind, hop]
    have hword : getU32Op s = .error (.raise .truncated) t := by rw [getU32Op, seq_bind, hbyte]
    exact ⟨t, performValue_faulted hbyte, performValue_faulted hword, hframe⟩

end Sys2Proof.Machine
end

/-! PROOFS. The family `42_arith_coder.md`, the round trip (O55): the decoder's code value is what the pushed bits
say beyond the encoder's lower end, so it lies in the part of the symbol that was encoded, and both narrow,
double and count alike. -/
section
namespace Sys2Proof.Machine

/-! ## The flush sends the lower end (R161) -/

theorem bitsValue_flushed {s : State} (hl : s.l.toNat < 2 ^ 26) :
    bitsValue (flushed s).bitOut = lowEnd s := by
  have hlow : (s.l.getLsbD 25).toNat * 2 ^ 25 + bitsValue (lowBits s.l 25) = s.l.toNat := by
    have hall := bitsValue_lowBits s.l 26
    rwa [lowBits_succ, bitsValue_cons, length_lowBits, Nat.mod_eq_of_lt hl] at hall
  have hpow := Nat.one_le_two_pow (n := s.bo.toNat)
  rw [flushed, bitsValue_append, bitsValue_append, bitsValue_follow, length_lowBits, List.length_cons,
    List.length_replicate, lowEnd, ← hlow, toNat_half, smallB, pow_add, pow_add]
  generalize 2 ^ s.bo.toNat = p at *
  obtain ⟨q, rfl⟩ := Nat.exists_eq_add_of_le hpow
  cases s.l.getLsbD 25
  · simp only [Bool.false_eq_true, if_false, Nat.add_sub_cancel_left, Bool.toNat_false]
    ring
  · simp only [if_true, Nat.add_sub_cancel_left, Bool.toNat_true]
    ring

theorem length_flushed (s : State) :
    (flushed s).bitOut.length = s.bitOut.length + s.bo.toNat + 26 := by
  simp only [flushed, List.length_append, List.length_cons, List.length_replicate, length_lowBits]
  omega

theorem flushed_pushed (s : State) : s.bitOut <+: (flushed s).bitOut := by
  rw [flushed, List.append_assoc]
  exact List.prefix_append _ _

/-! ## The decoder beside the encoder (R167, R168) -/

/-- The decoder in `g` stands where the encoder stood in `e`: the same models and range, and a code value that,
with the bits still to be pulled, makes up the lower end the encoder reaches in `f`. -/
structure Follows (bits : List Bool) (e f g : State) : Prop where
  models : g.models = e.models
  par : g.par = e.par
  range : g.r = e.r
  count : f.bitOut.length + f.bo.toNat = e.bitOut.length + e.bo.toNat + bits.length
  code : (lowEnd e + g.d.toNat) * 2 ^ bits.length + bitsValue bits = lowEnd f

namespace Follows

variable {bits : List Bool} {e f g : State} (h : Follows bits e f g)
include h

theorem modelsOk (hs : Machine.modelsOk e) : Machine.modelsOk g := hs.congr h.models h.par

theorem rangeOk (hr : Machine.rangeOk e) : Machine.rangeOk g := by
  rwa [Machine.rangeOk, h.range]

theorem modelAt_eq (m : ModelId) : modelAt g m = modelAt e m := by
  rw [modelAt, h.models, modelAt]

theorem stepOf_eq (fm : FreqModel) : stepOf g fm = stepOf e fm := by
  rw [stepOf, h.range, stepOf]

theorem narrowedRange_eq (fm : FreqModel) (sym : Nat) :
    narrowedRange g fm sym = narrowedRange e fm sym := by
  simp only [narrowedRange, h.stepOf_eq, h.range]

end Follows

/-- A number `f` between `a` and `a + n` steps above `e`, read to the whole step below it. -/
theorem code_between {e d a n p v f : Nat} (hcode : (e + d) * p + v = f) (hv : v < p)
    (hlow : (e + a) * p ≤ f) (hhigh : f < (e + a + n) * p) : a ≤ d ∧ d < a + n := by
  have hlt : f < (e + d + 1) * p := by linarith
  have hle : (e + d) * p ≤ f := by omega
  have h1 := Nat.lt_of_mul_lt_mul_right (hlow.trans_lt hlt)
  have h2 := Nat.lt_of_mul_lt_mul_right (hle.trans_lt hhigh)
  omega

/-- One symbol: the decoder returns what was encoded, and stands beside the encoder again. -/
theorem Follows.decodeOp {m : ModelId} {sym : Nat} {bits₁ bits₂ extra : List Bool} {e t f g : State}
    (h : Follows (bits₁ ++ bits₂) e f g) (hs : Machine.modelsOk e) (hr : Machine.rangeOk e)
    (hsym : sym < numSymbols m) (henc : Encoded m sym bits₁.length e t) (hw : Within bits₂.length t f)
    (hf : Machine.rangeOk f) (hb : g.bitIn = bits₁ ++ (bits₂ ++ extra)) :
    ∃ u, Machine.decodeOp m g = .ok sym u ∧ u.bitIn = bits₂ ++ extra ∧ Follows bits₂ t f u := by
  have hpart := symbolPart_of_modelsOk (h.modelsOk hs) (h.rangeOk hr) hsym
  have hcode := h.code
  have hbits := bitsValue_lt (bits₁ ++ bits₂)
  obtain ⟨hge, hlt⟩ : stepOf g (modelAt g m) * lowCumNat (modelAt g m) sym ≤ g.d.toNat ∧
      g.d.toNat < stepOf g (modelAt g m) * lowCumNat (modelAt g m) sym +
        narrowedRange g (modelAt g m) sym := by
    have hfpos : 0 < f.r.toNat := by
      obtain ⟨hlo, -⟩ := hf
      exact Nat.zero_lt_of_lt (BitVec.lt_def.1 hlo)
    have hlow := hw.low_le
    have hhigh := hw.high_le
    rw [henc.low, Nat.mul_assoc, ← pow_add, ← List.length_append] at hlow
    rw [henc.low, henc.range, ← Nat.add_mul, Nat.mul_assoc, ← pow_add, ← List.length_append] at hhigh
    rw [h.modelAt_eq, h.stepOf_eq, h.narrowedRange_eq]
    exact code_between hcode hbits hlow (by omega)
  have hrenorms : Renorms (narrowedRange g (modelAt g m) sym) bits₁.length := by
    rw [h.modelAt_eq, h.narrowedRange_eq]
    exact henc.renorms
  have hdec := decoded_afterDecode hpart hb hrenorms
  refine ⟨_, decodeOp_apply (h.modelsOk hs) hsym hpart (hpart.holdsTarget_of_code hge hlt) hb
    hrenorms, rfl, ⟨?_, ?_, ?_, hw.count, ?_⟩⟩
  · rw [hdec.models, henc.models, h.modelAt_eq, h.models, h.par]
  · rw [hdec.par_eq, henc.par_eq, h.par]
  · apply BitVec.eq_of_toNat_eq
    rw [hdec.range, henc.range, h.modelAt_eq, h.narrowedRange_eq]
  · obtain ⟨hd, -⟩ := hdec.toNat_code hge hlt
    obtain ⟨x, hx⟩ := Nat.exists_eq_add_of_le hge
    rw [hx, Nat.add_sub_cancel_left] at hd
    rw [hd, henc.low, ← hcode, hx, h.modelAt_eq, h.stepOf_eq, bitsValue_append, List.length_append,
      pow_add]
    ring

/-- All symbols: the decoder returns what was encoded and pulls every bit, and its code value ends at 0. -/
theorem Follows.decodeItems {items : List Item} {bits extra : List Bool} {e f g : State}
    (h : Follows bits e f g) (hs : Machine.modelsOk e) (hitems : ∀ item ∈ items, itemOk item)
    (henc : encoderOk items.length e) (hop : encodeItems items e = .ok () f)
    (hb : g.bitIn = bits ++ extra) :
    ∃ u, Machine.decodeItems (items.map Prod.fst) g = .ok (items.map Prod.snd) u ∧
      u.bitIn = extra ∧ u.models = f.models ∧ u.d = 0#32 := by
  induction items generalizing bits e g with
  | nil =>
    cases hop
    have hlen : bits.length = 0 := by
      have := h.count
      omega
    obtain rfl := List.length_eq_zero_iff.1 hlen
    have hzero : g.d.toNat = 0 := by
      have hcode := h.code
      rw [List.length_nil, pow_zero, Nat.mul_one, bitsValue_nil] at hcode
      omega
    exact ⟨g, rfl, hb, h.models, BitVec.eq_of_toNat_eq hzero⟩
  | cons item rest ih =>
    have hitem : item.2 < numSymbols item.1 := hitems item List.mem_cons_self
    have hrestOk : ∀ x ∈ rest, itemOk x := fun x hx => hitems x (List.mem_cons_of_mem _ hx)
    rw [List.length_cons] at henc
    obtain ⟨t, i, hsym, hencoded⟩ := encodeOp_encodes hs hitem (henc.mono (by omega))
    have hst := hencoded.modelsOk hs hitem
    have henct : encoderOk rest.length t := hencoded.encoderOk henc
    rw [encodeItems_cons, seq_bind_of_ok hsym] at hop
    obtain ⟨f', j, hop', -, hencf, hw⟩ := encodeItems_within (k := 0) hst hrestOk henct
    obtain rfl : f = f' := by
      rw [hop] at hop'
      cases hop'
      rfl
    have hlen : i + j = bits.length := by
      have := h.count
      have := hw.count
      have := hencoded.count
      omega
    obtain ⟨bits₁, bits₂, rfl, rfl⟩ : ∃ bits₁ bits₂, bits = bits₁ ++ bits₂ ∧ bits₁.length = i :=
      ⟨bits.take i, bits.drop i, (List.take_append_drop ..).symm, by rw [List.length_take]; omega⟩
    rw [List.length_append, Nat.add_left_cancel_iff] at hlen
    subst hlen
    rw [List.append_assoc] at hb
    obtain ⟨u, hdec, hbu, hu⟩ := h.decodeOp hs henc.range hitem hencoded hw hencf.range hb
    obtain ⟨v, hrest, hv⟩ := ih hu hst hrestOk henct hop hbu
    exact ⟨v, decodeItems_cons_of_ok hdec hrest, hv⟩

/-! ## From the first symbol to the flush (R173) -/

/-- The encoder as its initialisation leaves it. -/
def encStarted (s : State) : State := { s with l := 0#32, r := half, bo := 0#32 }

theorem encoderOk_encStarted {k : Nat} (h : 25 * k ≤ boLimit.toNat) (s : State) :
    encoderOk k (encStarted s) := by
  refine ⟨half_in_range, ?_, (Nat.zero_add _).trans_le h⟩
  have hsum : (0#32).toNat + half.toNat ≤ 2 ^ 26 := by decide
  exact hsum

theorem lowEnd_encStarted (s : State) : lowEnd (encStarted s) = bitsValue s.bitOut * 2 ^ 26 := by
  simp [lowEnd, encStarted, smallB]

/-- The decoder that has primed D with the first 26 of the bits pushed stands beside that encoder. -/
theorem follows_started {s e d : State} {j : Nat} {prime bits rest : List Bool}
    (hw : Within j (encStarted s) e) (hl : e.l.toNat < 2 ^ 26) (hprime : prime.length = 26)
    (hpushed : (flushed e).bitOut = s.bitOut ++ (prime ++ bits)) (hmodels : d.models = s.models)
    (hpar : d.par = s.par) :
    Follows bits (encStarted s) e
      { d with r := half, d := BitVec.ofNat 32 (bitsValue prime), bitIn := rest } := by
  have hcount := hw.count
  have hlen := congrArg List.length hpushed
  have hlow := bitsValue_flushed hl
  have hvalue : (BitVec.ofNat 32 (bitsValue prime)).toNat = bitsValue prime := by
    have hlt := bitsValue_lt prime
    rw [hprime] at hlt
    rw [BitVec.toNat_ofNat]
    exact Nat.mod_eq_of_lt (by omega)
  rw [length_flushed, List.length_append, List.length_append, hprime] at hlen
  have hstart : (encStarted s).bitOut.length = s.bitOut.length ∧ (encStarted s).bo.toNat = 0 :=
    ⟨rfl, rfl⟩
  refine ⟨hmodels, hpar, rfl, by omega, ?_⟩
  rw [hvalue, lowEnd_encStarted, ← hlow, hpushed, bitsValue_append, bitsValue_append, List.length_append,
    hprime, pow_add]
  ring

/-- Settles O55: the decoder stands beside the encoder from the start, and follows it symbol by symbol. -/
theorem decoderFollowsEncoder : Obligations.DecoderFollowsEncoder := by
  intro s items hs hitems hroom
  have henc := encoderOk_encStarted hroom s
  obtain ⟨e, j, hop, -, ⟨⟨hlo, -⟩, hfits, -⟩, hw⟩ :=
    encodeItems_within (k := 0) (s := encStarted s) hs hitems henc
  have hl : e.l.toNat < 2 ^ 26 := by
    rw [BitVec.lt_def] at hlo
    omega
  obtain ⟨pushed, hpushed⟩ := hw.pushed.trans (flushed_pushed e)
  have hlen : 26 ≤ pushed.length := by
    have hcount := hw.count
    have htotal := congrArg List.length hpushed
    rw [List.length_append, length_flushed] at htotal
    have hstart : (encStarted s).bo.toNat = 0 := rfl
    omega
  refine ⟨e, flushed e, pushed, hop, exec_acEncFlush e, hpushed.symm, fun d extra hmodels hpar hb => ?_⟩
  obtain ⟨prime, bits, rfl, hprime⟩ : ∃ prime bits, pushed = prime ++ bits ∧ prime.length = 26 :=
    ⟨pushed.take 26, pushed.drop 26, (List.take_append_drop ..).symm, by rw [List.length_take]; omega⟩
  rw [List.append_assoc] at hb
  have hfollows := follows_started (rest := bits ++ extra) hw hl hprime hpushed.symm hmodels hpar
  obtain ⟨u, hdec, hbu, hmu, hdu⟩ := hfollows.decodeItems hs hitems henc hop rfl
  exact ⟨_, u, (exec_acDecStart_eq d).trans (perform_of_ok (decStartOp_apply hb hprime)), hdec, hbu, hmu,
    hdu⟩

end Sys2Proof.Machine
end

/-! PROOFS. The family `43_mtf_codec.md`, the list (O56): it holds every byte once, so a byte and its rank name the
same place. -/
section
namespace Sys2Proof.Machine

variable {s : State}

/-! ## The list (R37) -/

theorem nodup_initialList : initialList.Nodup := by
  refine List.nodup_range.map_on fun i hi j hj h => ?_
  have hnat := congrArg BitVec.toNat h
  rw [List.mem_range] at hi hj
  rwa [BitVec.toNat_ofNat, BitVec.toNat_ofNat, Nat.mod_eq_of_lt hi, Nat.mod_eq_of_lt hj] at hnat

theorem initialList_getD {j : Nat} (hj : j < 256) : initialList.getD j 0#8 = BitVec.ofNat 8 j := by
  simp [initialList, hj]

/-- The rank of a byte is below 256 (R192). -/
theorem idxOf_lt_of_listOk (h : listOk s) (b : Byte) : s.yy.idxOf b < 256 := by
  rw [← length_of_listOk h]
  exact List.idxOf_lt_length_of_mem (mem_of_listOk h b)

theorem getD_idxOf_of_listOk (h : listOk s) (b : Byte) : s.yy.getD (s.yy.idxOf b) 0#8 = b := by
  rw [List.getD_eq_getElem _ _ (List.idxOf_lt_length_of_mem (mem_of_listOk h b)), List.getElem_idxOf]

/-- The byte of a rank, and the rank of that byte, are one place of the list. -/
theorem idxOf_getD_of_listOk (h : listOk s) {v : Nat} (hv : v < 256) :
    s.yy.idxOf (s.yy.getD v 0#8) = v := by
  have hlen : v < s.yy.length := (length_of_listOk h).symm ▸ hv
  rw [List.getD_eq_getElem _ _ hlen]
  exact ((h.nodup_iff).2 nodup_initialList).idxOf_getElem v hlen

/-- Moving a byte to the front keeps the list a permutation (R37). -/
theorem listOk_cons_erase (h : listOk s) (b : Byte) : (b :: s.yy.erase b).Perm initialList :=
  (List.perm_cons_erase (mem_of_listOk h b)).symm.trans h

/-- Moving the front byte changes nothing. -/
theorem cons_erase_of_idxOf_eq_zero (h : listOk s) {b : Byte} (h0 : s.yy.idxOf b = 0) :
    b :: s.yy.erase b = s.yy := by
  have hbyte := getD_idxOf_of_listOk h b
  obtain ⟨front, others, hyy⟩ := List.exists_cons_of_ne_nil (List.ne_nil_of_mem (mem_of_listOk h b))
  rw [h0, hyy] at hbyte
  obtain rfl : front = b := hbyte
  rw [hyy, List.erase_cons_head]

theorem mtfRankOp_apply (h : listOk s) (b : Byte) :
    mtfRankOp b s = .ok (s.yy.idxOf b) { s with yy := b :: s.yy.erase b } := by
  rw [mtfRankOp_of_mem (mem_of_listOk h b), moveToFront, List.eraseIdx_idxOf_eq_erase]

theorem mtfTakeOp_apply (h : listOk s) {v : Nat} (hv : v < 256) :
    mtfTakeOp v s =
      .ok (s.yy.getD v 0#8)
        { s with yy := s.yy.getD v 0#8 :: s.yy.erase (s.yy.getD v 0#8) } := by
  rw [mtfTakeOp_of_lt ((length_of_listOk h).symm ▸ hv), moveToFront, ← List.eraseIdx_idxOf_eq_erase,
    idxOf_getD_of_listOk h hv]

theorem exec_mtfTake (h : listOk s) (v : Byte) :
    exec (.mtfTake v) s =
      .next { s with
        yy := s.yy.getD v.toNat 0#8 :: s.yy.erase (s.yy.getD v.toNat 0#8)
        result := [(s.yy.getD v.toNat 0#8).zeroExtend 32] } :=
  performValue_of_ok (g := fun b : Byte => [b.zeroExtend 32]) (mtfTakeOp_apply h v.isLt)

/-- Settles O56: a rank is the place of its byte, so taking at that place moves the same byte. -/
theorem listOperations : Obligations.ListOperations := by
  intro s h
  refine ⟨⟨{ s with yy := initialList }, perform_of_ok (mtfInitOp_apply s), rfl, by simp [initialList],
      fun j => initialList_getD⟩, fun b => ?_, exec_mtfTake h, fun b => ?_⟩
  · exact performValue_of_ok (g := fun j => [BitVec.ofNat 32 j]) (mtfRankOp_apply h b)
  · have hrank : (BitVec.ofNat 8 (s.yy.idxOf b)).toNat = s.yy.idxOf b :=
      Nat.mod_eq_of_lt (idxOf_lt_of_listOk h b)
    rw [exec_mtfTake h, hrank, getD_idxOf_of_listOk h]

end Sys2Proof.Machine
end

/-! PROOFS. What the coder's operations see of the state: `CoderLocal` says that an operation does the same to the
coder whatever the list, the arrays and the counters beside it hold. -/
section
namespace Sys2Proof.Machine

variable {α β : Type}

/-- `c` with the coder of `s`: its registers, its ports and the models. -/
def withCoder (c s : State) : State :=
  { c with
    l := s.l, r := s.r, bo := s.bo, d := s.d, bitIn := s.bitIn, bitInEod := s.bitInEod
    bitOut := s.bitOut, models := s.models }

/-- Where an operation ended, seen from another state. -/
def onState (f : State → State) : EStateM.Result Stop State α → EStateM.Result Stop State α
  | .ok a t => .ok a (f t)
  | .error e t => .error e (f t)

/-- `op` changes the coder alone and reads, besides it, the parameters at most, so it does the same beside
whatever the rest of the core holds. -/
structure CoderLocal (op : Seq α) : Prop where
  beside : ∀ c s, c.par = s.par → op (withCoder c s) = onState (withCoder c) (op s)

namespace CoderLocal

theorem of_ok {op : Seq α} (h : CoderLocal op) {c s t : State} {a : α} (hpar : c.par = s.par)
    (hop : op s = .ok a t) : op (withCoder c s) = .ok a (withCoder c t) := by
  rw [h.beside c s hpar, hop, onState]

/-- What the operation changes is the coder. -/
theorem frame {op : Seq α} (h : CoderLocal op) {s t : State} {a : α} (hop : op s = .ok a t) :
    t = withCoder s t := by
  have hself := h.of_ok (c := s) rfl hop
  have hs : withCoder s s = s := rfl
  rw [hs, hop, EStateM.Result.ok.injEq] at hself
  exact hself.2

theorem par_eq {op : Seq α} (h : CoderLocal op) {s t : State} {a : α} (hop : op s = .ok a t) :
    t.par = s.par := by
  rw [h.frame hop, withCoder]

theorem pure (a : α) : CoderLocal (pure a) := ⟨fun _ _ _ => rfl⟩

theorem throw (e : Stop) : CoderLocal (throw e : Seq α) := ⟨fun _ _ _ => rfl⟩

theorem bind {x : Seq α} {f : α → Seq β} (hx : CoderLocal x) (hf : ∀ a, CoderLocal (f a)) :
    CoderLocal (x >>= f) := by
  refine ⟨fun c s hpar => ?_⟩
  rw [seq_bind, seq_bind, hx.beside c s hpar]
  cases hop : x s with
  | ok a t => exact (hf a).beside c t (hpar.trans (hx.par_eq hop).symm)
  | error e t => rfl

theorem ite {p : Prop} [Decidable p] {x y : Seq α} (hx : CoderLocal x) (hy : CoderLocal y) :
    CoderLocal (if p then x else y) := by
  split
  · exact hx
  · exact hy

/-- A part that uses of the state it read only the coder and the parameters. -/
theorem get {f : State → Seq β} (hread : ∀ c s, c.par = s.par → f (withCoder c s) = f s)
    (hf : ∀ s, CoderLocal (f s)) : CoderLocal ((get : Seq State) >>= f) := by
  refine ⟨fun c s hpar => ?_⟩
  rw [seq_bind_of_ok (seq_get _), seq_bind_of_ok (seq_get _), hread c s hpar]
  exact (hf s).beside c s hpar

theorem modify {f : State → State} (h : ∀ c s, f (withCoder c s) = withCoder c (f s)) :
    CoderLocal (modify f : Seq Unit) := by
  refine ⟨fun c s _ => ?_⟩
  rw [seq_modify, seq_modify, h, onState]

end CoderLocal

/-! ## Models -/

theorem coderLocal_checkSymbol (m : ModelId) (sym : Nat) : CoderLocal (checkSymbol m sym) :=
  .ite (.pure ()) (.throw _)

theorem coderLocal_readModel (m : ModelId) : CoderLocal (readModel m) :=
  .get (fun _ _ _ => rfl) fun _ => .pure _

theorem coderLocal_modelUpdateOp (m : ModelId) (sym : Nat) : CoderLocal (modelUpdateOp m sym) :=
  .bind (coderLocal_checkSymbol m sym) fun _ =>
    .get (fun c s (hpar : (withCoder c s).par = s.par) => by rw [hpar]) fun _ =>
    .bind (coderLocal_readModel m) fun _ =>
      .modify fun _ _ => rfl

/-! ## Encoder -/

theorem coderLocal_encDecideOp : CoderLocal encDecideOp := by
  refine ⟨fun c s hpar => ?_⟩
  by_cases hlower : s.l + s.r ≤ half
  · rw [encDecideOp_lower hlower, encDecideOp_lower (s := withCoder c s) hlower]
    rfl
  by_cases hupper : half ≤ s.l
  · rw [encDecideOp_upper hlower hupper, encDecideOp_upper (s := withCoder c s) hlower hupper]
    rfl
  · rw [encDecideOp_middle hlower hupper, encDecideOp_middle (s := withCoder c s) hlower hupper]
    by_cases hroom : boLimit < s.bo + 1#32
    · rw [if_pos hroom, if_pos (show boLimit < (withCoder c s).bo + 1#32 from hroom)]
      rfl
    · rw [if_neg hroom, if_neg (show ¬ boLimit < (withCoder c s).bo + 1#32 from hroom)]
      rfl

theorem coderLocal_encRenormLoop : ∀ fuel, CoderLocal (encRenormLoop fuel)
  | 0 => .throw _
  | fuel + 1 => .get (fun _ _ _ => rfl) fun _ =>
    .ite (.bind coderLocal_encDecideOp fun _ => .bind (.modify fun _ _ => rfl) fun _ =>
      coderLocal_encRenormLoop fuel) (.pure ())

theorem coderLocal_encNarrowOp (fm : FreqModel) (sym : Nat) : CoderLocal (encNarrowOp fm sym) :=
  .ite (.bind (.throw _) fun _ => .modify fun _ _ => rfl) (.modify fun _ _ => rfl)

theorem coderLocal_encodeOp (m : ModelId) (sym : Nat) : CoderLocal (encodeOp m sym) :=
  .bind (coderLocal_checkSymbol m sym) fun _ => .bind (coderLocal_readModel m) fun fm =>
    .bind (coderLocal_encNarrowOp fm sym) fun _ => .bind (coderLocal_encRenormLoop 32) fun _ =>
      coderLocal_modelUpdateOp m sym

theorem coderLocal_encodeItems : ∀ items, CoderLocal (encodeItems items)
  | [] => .pure ()
  | item :: rest => .bind (coderLocal_encodeOp item.1 item.2) fun _ => coderLocal_encodeItems rest

/-! ## Decoder -/

theorem coderLocal_pullBit : CoderLocal pullBit := by
  refine ⟨fun c s hpar => ?_⟩
  cases hb : s.bitIn with
  | cons b rest =>
    rw [pullBit_cons hb, pullBit_cons (s := withCoder c s) hb]
    rfl
  | nil =>
    rw [pullBit_nil hb, pullBit_nil (s := withCoder c s) hb]
    rfl

theorem coderLocal_decRenormLoop : ∀ fuel, CoderLocal (decRenormLoop fuel)
  | 0 => .throw _
  | fuel + 1 => .get (fun _ _ _ => rfl) fun _ =>
    .ite (.bind coderLocal_pullBit fun _ => .bind (.modify fun _ _ => rfl) fun _ =>
      coderLocal_decRenormLoop fuel) (.pure ())

/-- The rest of `ac.decode` once its symbol is found (R166 steps 3 and 4). -/
def decodeFound (m : ModelId) (sym : Nat) : Seq Nat := do
  decRenormOp
  modelUpdateOp m sym
  pure sym

theorem coderLocal_decodeFound (m : ModelId) (sym : Nat) : CoderLocal (decodeFound m sym) :=
  .bind (.get (fun _ _ _ => rfl) fun _ => coderLocal_decRenormLoop _) fun _ =>
    .bind (coderLocal_modelUpdateOp m sym) fun _ => .pure sym

theorem coderLocal_decodeOp (m : ModelId) : CoderLocal (decodeOp m) := by
  refine .bind (coderLocal_readModel m) fun fm => ⟨fun c s hpar => ?_⟩
  rw [seq_bind_of_ok (seq_get _), seq_bind_of_ok (seq_get _)]
  by_cases htot : fm.totFreq = 0#32
  · rw [if_pos htot, if_pos htot]
    rfl
  by_cases hstep : s.r / fm.totFreq = 0#32
  · rw [if_neg htot, if_neg htot, if_pos hstep, if_pos (show (withCoder c s).r / _ = 0#32 from hstep)]
    rfl
  rw [if_neg htot, if_neg htot, if_neg hstep,
    if_neg (show ¬ (withCoder c s).r / _ = 0#32 from hstep)]
  have hd : (withCoder c s).d = s.d := rfl
  have hr : (withCoder c s).r = s.r := rfl
  simp only [hd, hr]
  cases hfind : findSymbol (decTarget fm.totFreq (s.r / fm.totFreq) s.d) fm.freq 0 0#32 with
  | none => rfl
  | some found =>
    obtain ⟨sym, low, f⟩ := found
    exact (coderLocal_decodeFound m sym).beside c { s with
      d := s.d - s.r / fm.totFreq * low
      r := if low + f < fm.totFreq then s.r / fm.totFreq * f else s.r - s.r / fm.totFreq * low } hpar

theorem coderLocal_decodeItems : ∀ ms, CoderLocal (decodeItems ms)
  | [] => .pure _
  | m :: rest => .bind (coderLocal_decodeOp m) fun _ => .bind (coderLocal_decodeItems rest) fun _ =>
    .pure _

end Sys2Proof.Machine
end

/-! PROOFS. The family `43_mtf_codec.md`, the basis symbols received (O58): bytes stored in LL, the end of a run and
a value, said once, and from them each row. -/
section
namespace Sys2Proof.Machine

variable {s : State}

/-! ## Bytes stored in LL (R200) -/

/-- What storing bytes in LL rests on: its canonical form, CAP within its size, and the list. -/
structure LlReady (s : State) : Prop where
  wf : Memory.wf s.ll = true
  cap : capOf s ≤ capMax s.par
  list : listOk s

theorem LlReady.of_level (ha : arraysOk s) (hlist : listOk s) (hlevel : s.level.toNat ≤ s.par.maxLevel) :
    LlReady s := by
  obtain ⟨-, -, hll, -⟩ := ha
  exact ⟨hll, Nat.mul_le_mul_left _ hlevel, hlist⟩

/-- One append after another: LL is appended to as BLOCK is. -/
theorem appendsLl_append {s t u : State} {xs ys : List Byte}
    (hpos : t.pos.toNat = s.pos.toNat + xs.length) (hx : appendsLl s t xs) (hy : appendsLl t u ys) :
    appendsLl s u (xs ++ ys) :=
  appendsBlock_append (s := { s with block := s.ll }) (t := { t with block := t.ll })
    (u := { u with block := u.ll }) hpos hx hy

theorem appendsLl_congr {s t u : State} {bytes : List Byte} (hpos : s.pos = t.pos) (hll : s.ll = t.ll)
    (h : appendsLl s u bytes) : appendsLl t u bytes := by
  simpa only [appendsLl, llAt, hpos, hll] using h

theorem appendsLl_nil (s : State) : appendsLl s s [] := by
  intro i
  rw [if_neg (by simp)]

theorem toNat_pos_add {k : Nat} (hfit : s.pos.toNat + k ≤ capOf s) :
    (s.pos + BitVec.ofNat 32 k).toNat = s.pos.toNat + k := by
  have hcap := capOf_lt s
  rw [BitVec.toNat_add, BitVec.toNat_ofNat]
  omega

/-- Within CAP a byte is appended to LL. -/
theorem appendLl_appends (h : LlReady s) (b : Byte) (hroom : s.pos.toNat + 1 ≤ capOf s) :
    ∃ t, appendLl b s = .ok () t ∧ LlReady t ∧ appendsLl s t [b] ∧
      t = { s with ll := t.ll, pos := s.pos + 1#32 } := by
  refine ⟨_, appendLl_of_lt (hroom.trans h.cap), ⟨arrWf_arrSet h.wf _ _, h.cap, h.list⟩, fun i => ?_,
    rfl⟩
  by_cases hi : i = s.pos.toNat
  · subst hi
    rw [llAt, arrGet_arrSet_same _ _ _ h.wf, if_pos (by simp), Nat.sub_self]
    rfl
  · rw [llAt, arrGet_arrSet_other _ _ _ _ hi h.wf, if_neg (by simp only [List.length_singleton]; omega)]
    rfl

theorem repeatTimes_appendLl (b : Byte) (k : Nat) {s : State} (h : LlReady s)
    (hroom : s.pos.toNat + k ≤ capOf s) :
    ∃ t, repeatTimes (appendLl b) k s = .ok () t ∧ LlReady t ∧ appendsLl s t (List.replicate k b) ∧
      t = { s with ll := t.ll, pos := s.pos + BitVec.ofNat 32 k } := by
  induction k generalizing s with
  | zero =>
    refine ⟨s, rfl, h, appendsLl_nil s, ?_⟩
    simp
  | succ k ih =>
    obtain ⟨t, hop, ht, happ, hframe⟩ := appendLl_appends h b (by omega)
    have hpos : t.pos.toNat = s.pos.toNat + 1 := by
      rw [hframe]
      exact toNat_pos_add (k := 1) (by omega)
    have hcap : capOf t = capOf s := by rw [hframe]; rfl
    obtain ⟨u, hrest, hu, happ', hframe'⟩ := ih ht (by omega)
    refine ⟨u, ?_, hu, appendsLl_append hpos happ happ', ?_⟩
    · rw [repeatTimes_succ, seq_bind_of_ok hop, hrest]
    · rw [hframe', hframe, Nat.add_comm k 1, BitVec.ofNat_add, ← BitVec.add_assoc]

/-- The end of a run writes it out; RUNW starts again unless no run was pending (R200). -/
theorem flushRunOp_stores (h : LlReady s) (hroom : s.pos.toNat + s.runacc.toNat ≤ capOf s) :
    ∃ f, flushRunOp s = .ok () f ∧ LlReady f ∧
      appendsLl s f (List.replicate s.runacc.toNat (s.yy.getD 0 0#8)) ∧
      f = { s with
        ll := f.ll, pos := s.pos + s.runacc, runacc := 0#32
        runw := if s.runacc = 0#32 then s.runw else 1#32 } := by
  rw [flushRunOp, seq_bind_of_ok (seq_get s)]
  by_cases h0 : s.runacc = 0#32
  · rw [if_pos h0, if_pos h0, h0]
    refine ⟨s, rfl, h, appendsLl_nil s, ?_⟩
    rw [BitVec.add_zero, ← h0]
  · obtain ⟨t, hop, ht, happ, hframe⟩ := repeatTimes_appendLl (s.yy.getD 0 0#8) _ h hroom
    rw [if_neg h0, if_neg h0, seq_bind_of_ok hop]
    refine ⟨{ t with runacc := 0#32, runw := 1#32 }, rfl, ⟨ht.wf, ht.cap, ht.list⟩, happ, ?_⟩
    rw [hframe, BitVec.ofNat_toNat, BitVec.setWidth_eq]

/-- A value that fits takes its byte from the list and stores it (R200). -/
theorem storeValueOp_stores (h : LlReady s) {v : Nat} (hv : v < 256)
    (hroom : s.pos.toNat + 1 ≤ capOf s) :
    ∃ t, storeValueOp v s = .ok () t ∧ LlReady t ∧ appendsLl s t [s.yy.getD v 0#8] ∧
      t = { s with
        ll := t.ll, pos := s.pos + 1#32
        yy := s.yy.getD v 0#8 :: s.yy.erase (s.yy.getD v 0#8) } := by
  have htaken : LlReady
      { s with yy := s.yy.getD v 0#8 :: s.yy.erase (s.yy.getD v 0#8) } :=
    ⟨h.wf, h.cap, listOk_cons_erase h.list _⟩
  obtain ⟨t, hop, ht, happ, hframe⟩ := appendLl_appends htaken (s.yy.getD v 0#8) hroom
  refine ⟨t, ?_, ht, happ, hframe⟩
  rw [storeValueOp, seq_bind_of_ok (seq_get s), if_neg (Nat.not_lt.2 hroom)]
  exact (seq_bind_of_ok (mtfTakeOp_apply h.list hv) _).trans hop

/-- A value beyond CAP raises BLOCK_OVERRUN and changes nothing (R200, R202). -/
theorem storeValueOp_overruns (v : Nat) (hfull : capOf s < s.pos.toNat + 1) :
    storeValueOp v s = .error (.raise .blockOverrun) s := by
  rw [storeValueOp, seq_bind_of_ok (seq_get s), if_pos hfull, seq_bind, raise_apply]

/-! ## What follows a basis symbol (R200) -/

theorem basisReceived_digit (d : RunDigit) :
    basisReceived (digitSymbol d) = (do absorbOp d; pure false) := by
  cases d <;> rfl

theorem basisReceived_eob : basisReceived symEob = (do flushRunOp; pure true) := rfl

theorem basisReceived_one :
    basisReceived symOne = (do flushRunOp; storeValueOp 1; pure false) := rfl

/-- A class symbol is followed by its offset (R101). -/
theorem basisReceived_class {c : Nat} (h1 : 1 ≤ c) (h7 : c ≤ 7) :
    basisReceived (c + 2) = (do
      flushRunOp
      let off ← decodeOp (classModel c)
      storeValueOp (2 ^ c + off)
      pure false) := by
  have hruna : c + 2 ≠ symRuna := by simp only [symRuna]; omega
  have hrunb : c + 2 ≠ symRunb := by simp only [symRunb]; omega
  have heob : c + 2 ≠ symEob := by simp only [symEob]; omega
  have hone : c + 2 ≠ symOne := by simp only [symOne]; omega
  rw [basisReceived, if_neg hruna, if_neg hrunb, if_neg heob, if_neg hone, Nat.add_sub_cancel]

/-! ## Rows of format BASIS received by themselves (log entry 12) -/

/-- A value that is not used changes nothing of the outcome. -/
theorem perform_map {α β : Type} (op : Seq α) (g : α → β) (s : State) :
    perform (do let a ← op; pure (g a)) s = perform op s := by
  rw [perform, perform, seq_bind]
  cases op s with
  | ok a t => rfl
  | error e t => cases e <;> rfl

/-- Every row of format BASIS is performed as its symbol is (R100). -/
theorem exec_basisRow (s : State) : ∀ row ∈ basisRows, exec row.1 s = perform (basisOp row.2) s := by
  simp only [basisRows, List.forall_mem_cons]
  exact ⟨rfl, rfl, rfl, rfl, rfl, rfl, rfl, rfl, rfl, rfl, rfl, nofun⟩

/-- Received by itself a row does what DECODE does after its symbol. -/
theorem exec_basisRow_received (hm : s.mode = .decompress) {i : Instr} {sym : Nat}
    (h : (i, sym) ∈ basisRows) : exec i s = perform (basisReceived sym) s := by
  rw [exec_basisRow s (i, sym) h, basisOp, perform_received hm]
  exact perform_map (basisReceived sym) (fun _ => ()) s

theorem exec_mtfAbsorb (d : RunDigit) (s : State) : exec (.mtfAbsorb d) s = perform (absorbOp d) s := rfl

theorem exec_basisDigit_received (hm : s.mode = .decompress) {i : Instr} (d : RunDigit)
    (h : (i, digitSymbol d) ∈ basisRows) : exec i s = exec (.mtfAbsorb d) s := by
  rw [exec_basisRow_received hm h, basisReceived_digit, exec_mtfAbsorb]
  exact perform_map (absorbOp d) (fun _ => false) s

section Value

variable {f u : State} {v : Nat}

/-- What ONE and the class symbols do after the run is written out and the value is known. -/
theorem perform_value_of_fits {x : Seq Bool} (hx : x s = (do storeValueOp v; pure false) u) (hu : LlReady u)
    (hv : v < 256) (hroom : u.pos.toNat + 1 ≤ capOf u) :
    ∃ t, perform x s = .next t ∧ appendsLl u t [u.yy.getD v 0#8] ∧
      t = { u with
        ll := t.ll, pos := u.pos + 1#32
        yy := u.yy.getD v 0#8 :: u.yy.erase (u.yy.getD v 0#8) } := by
  obtain ⟨t, hop, -, happ, hframe⟩ := storeValueOp_stores hu hv hroom
  rw [seq_bind_of_ok hop] at hx
  exact ⟨t, perform_of_ok hx, happ, hframe⟩

theorem perform_value_of_full {x : Seq Bool} (hx : x s = (do storeValueOp v; pure false) u)
    (hfull : capOf u < u.pos.toNat + 1) : perform x s = .next (faulted 0x12#8 u) := by
  rw [seq_bind, storeValueOp_overruns v hfull] at hx
  exact perform_faulted hx

theorem basisReceived_one_of_flushed (hflush : flushRunOp s = .ok () f) :
    basisReceived symOne s = (do storeValueOp 1; pure false) f := by
  rw [basisReceived_one, seq_bind_of_ok hflush]

theorem basisReceived_class_of_flushed {c off : Nat} (h1 : 1 ≤ c) (h7 : c ≤ 7)
    (hflush : flushRunOp s = .ok () f) (hoff : decodeOp (classModel c) f = .ok off u) :
    basisReceived (c + 2) s = (do storeValueOp (2 ^ c + off); pure false) u := by
  rw [basisReceived_class h1 h7, seq_bind_of_ok hflush, seq_bind_of_ok hoff]

/-- The value of a class is a byte (R101). -/
theorem class_value_lt {c off : Nat} (h7 : c ≤ 7) (hoff : off < 2 ^ c) : 2 ^ c + off < 256 := by
  have hpow : 2 ^ c ≤ 2 ^ 7 := Nat.pow_le_pow_right (by decide) h7
  omega

/-- With 25 bits in the port the offset of a class is decoded, and nothing but the coder changes (R166). -/
theorem decodeItems_class {c : Nat} (h1 : 1 ≤ c) (h7 : c ≤ 7) (hs : modelsOk s) (hr : rangeOk s)
    (hb : 25 ≤ s.bitIn.length) :
    ∃ u off, decodeItems [Fin.ofNat 9 c] s = .ok [off] u ∧ decodeOp (classModel c) s = .ok off u ∧
      off < 2 ^ c ∧ u = withCoder s u ∧ u.par = s.par := by
  obtain ⟨u, off, -, hop, -, -, hoff, -⟩ := decodeOp_decodes hs hr hb (classModel c)
  rw [numSymbols_classModel h1 h7] at hoff
  exact ⟨u, off, decodeItems_cons_of_ok hop rfl, hop, hoff, (coderLocal_decodeOp _).frame hop,
    (coderLocal_decodeOp _).par_eq hop⟩

end Value

/-- Settles O58: a row does what DECODE does after its symbol, which writes the run out and then stores the
value or, at CAP, raises BLOCK_OVERRUN. -/
theorem basisSymbolsAreReceived : Obligations.BasisSymbolsAreReceived := by
  intro s hp ha hlist hm hlevel
  have hready : LlReady s := .of_level ha hlist hlevel
  refine ⟨exec_basisDigit_received hm .runa (by decide), exec_basisDigit_received hm .runb (by decide),
    fun hroom => ?_⟩
  obtain ⟨f, hflush, hf, happ, hframe⟩ := flushRunOp_stores hready hroom
  have hpos : f.pos.toNat = s.pos.toNat + s.runacc.toNat := by
    rw [hframe, ← toNat_pos_add hroom, BitVec.ofNat_toNat, BitVec.setWidth_eq]
  have hcap : capOf f = capOf s := by rw [hframe]; rfl
  have hyy : f.yy = s.yy := by rw [hframe]
  have heob : basisReceived symEob s = .ok true f := by
    rw [basisReceived_eob, seq_bind_of_ok hflush]
    rfl
  have hone := basisReceived_one_of_flushed hflush
  have hclass {c : Nat} (h1 : 1 ≤ c) (h7 : c ≤ 7) (hs : modelsOk s) (hr : rangeOk s)
      (hb : 25 ≤ s.bitIn.length) :
      ∃ u off, decodeItems [Fin.ofNat 9 c] f = .ok [off] u ∧ off < 2 ^ c ∧
        basisReceived (c + 2) s = (do storeValueOp (2 ^ c + off); pure false) u ∧
        u = withCoder f u ∧ u.par = f.par := by
    obtain ⟨u, off, hitems, hop, hoff, hu, hpar⟩ := decodeItems_class (s := f) h1 h7
      (hs.congr (by rw [hframe]) (by rw [hframe])) (by rw [rangeOk, hframe]; exact hr)
      (by rw [hframe]; exact hb)
    exact ⟨u, off, hitems, hoff, basisReceived_class_of_flushed h1 h7 hflush hop, hu, hpar⟩
  refine ⟨f, ?_, happ, hframe, fun hfits => ⟨?_, fun i c hi h1 h7 hs hr hb => ?_⟩,
    fun hfull => ⟨?_, fun i c hi h1 h7 hs hr hb => ?_⟩⟩
  · rw [exec_basisRow_received hm (sym := symEob) (by decide)]
    exact perform_of_ok heob
  · rw [exec_basisRow_received hm (sym := symOne) (by decide), ← hyy]
    exact perform_value_of_fits hone hf (by decide) (by omega)
  · obtain ⟨u, off, hitems, hoff, hx, hu, hpar⟩ := hclass h1 h7 hs hr hb
    obtain ⟨hupos, hull, huyy, hucap⟩ :
        u.pos = f.pos ∧ u.ll = f.ll ∧ u.yy = f.yy ∧ capOf u = capOf f := by
      rw [hu]
      exact ⟨rfl, rfl, rfl, rfl⟩
    have huready : LlReady u :=
      ⟨hull ▸ hf.wf, by rw [hucap, hpar]; exact hf.cap, by rw [listOk, huyy]; exact hf.list⟩
    obtain ⟨t, hexec, happ', hframe'⟩ :=
      perform_value_of_fits hx huready (class_value_lt h7 hoff) (by rw [hupos, hucap]; omega)
    rw [huyy, hyy] at happ' hframe'
    rw [hupos] at hframe'
    exact ⟨t, u, off, (exec_basisRow_received hm hi).trans hexec, hitems, hoff,
      appendsLl_congr hupos hull happ', hframe'⟩
  · rw [exec_basisRow_received hm (sym := symOne) (by decide)]
    exact perform_value_of_full hone (by omega)
  · obtain ⟨u, off, hitems, hoff, hx, hu, -⟩ := hclass h1 h7 hs hr hb
    refine ⟨u, off, hitems, hoff, ?_⟩
    rw [exec_basisRow_received hm hi]
    refine perform_value_of_full hx ?_
    rw [hu]
    change capOf f < f.pos.toNat + 1
    omega

end Sys2Proof.Machine
end

/-! PROOFS. The family `43_mtf_codec.md`, ENCODE (O50): a pass sends the symbols of its rank, and all passes those of
the column. -/
section
namespace Sys2Proof.Machine

variable {s : State}

/-! ## The symbols of a block (R197) -/

theorem encodeItems_append (xs ys : List Item) :
    encodeItems (xs ++ ys) = (do encodeItems xs; encodeItems ys) := by
  induction xs with
  | nil => rfl
  | cons item rest ih => rw [List.cons_append, encodeItems_cons, ih, encodeItems_cons, bind_assoc]

/-- The first part of a sequence that is encoded ends where the rest begins. -/
theorem encodeItems_append_ok {xs ys : List Item} {u : State}
    (h : encodeItems (xs ++ ys) s = .ok () u) :
    ∃ t, encodeItems xs s = .ok () t ∧ encodeItems ys t = .ok () u := by
  rw [encodeItems_append] at h
  obtain ⟨_, t, hx, hy⟩ := (seq_bind_ok_iff ..).1 h
  exact ⟨t, hx, hy⟩

theorem rankItems_nil (zp : Nat) : rankItems zp [] = runItems zp ++ [(basisModel, symEob)] := by
  rw [rankItems]

theorem rankItems_zero (zp : Nat) (rest : List Nat) : rankItems zp (0 :: rest) = rankItems (zp + 1) rest := by
  rw [rankItems]

theorem rankItems_value (zp : Nat) {j : Nat} (hj : j ≠ 0) (rest : List Nat) :
    rankItems zp (j :: rest) = runItems zp ++ (valueItems j ++ rankItems 0 rest) := by
  obtain ⟨j, rfl⟩ := Nat.exists_eq_succ_of_ne_zero hj
  rw [rankItems, List.append_assoc]
  exact Nat.succ_ne_zero j

theorem itemOk_rankItems {ranks : List Nat} (hranks : ∀ j ∈ ranks, j < 256) (zp : Nat) :
    ∀ item ∈ rankItems zp ranks, itemOk item := by
  induction ranks generalizing zp with
  | nil =>
    rw [rankItems_nil]
    exact List.forall_mem_append.2
      ⟨itemOk_runItems zp, List.forall_mem_singleton.2 (itemOk_basis (by decide))⟩
  | cons j rest ih =>
    obtain ⟨hj, hrest⟩ := List.forall_mem_cons.1 hranks
    by_cases h0 : j = 0
    · rw [h0, rankItems_zero]
      exact ih hrest _
    · rw [rankItems_value zp h0]
      exact List.forall_mem_append.2 ⟨itemOk_runItems zp,
        List.forall_mem_append.2 ⟨itemOk_valueItems h0 hj, ih hrest 0⟩⟩

/-- A run has no more digits than places. -/
theorem length_runItems_le_self (k : Nat) : (runItems k).length ≤ k := by
  simp only [runItems, runString, List.length_map, List.length_range]
  exact Nat.le_of_lt_succ ((Nat.log2_lt (Nat.succ_ne_zero k)).2 Nat.lt_two_pow_self)

theorem length_rankItems_le (ranks : List Nat) (zp : Nat) :
    (rankItems zp ranks).length ≤ zp + 2 * ranks.length + 1 := by
  induction ranks generalizing zp with
  | nil =>
    have := length_runItems_le_self zp
    rw [rankItems_nil, List.length_append, List.length_singleton]
    omega
  | cons j rest ih =>
    have hrest := ih 0
    have hnext := ih (zp + 1)
    have hrun := length_runItems_le_self zp
    have hvalue := length_valueItems_le j
    rw [List.length_cons]
    by_cases h0 : j = 0
    · rw [h0, rankItems_zero]
      omega
    · rw [rankItems_value zp h0, List.length_append, List.length_append]
      omega

theorem length_ranksOf (yy column : List Byte) : (ranksOf yy column).length = column.length := by
  induction column generalizing yy with
  | nil => rfl
  | cons b rest ih => rw [ranksOf, List.length_cons, ih, List.length_cons]

theorem ranksOf_lt {yy : List Byte} (h : yy.Perm initialList) (column : List Byte) :
    ∀ j ∈ ranksOf yy column, j < 256 := by
  induction column generalizing yy with
  | nil => exact fun j hj => absurd hj List.not_mem_nil
  | cons b rest ih =>
    have hs : listOk { State.reset with yy := yy } := h
    exact List.forall_mem_cons.2 ⟨idxOf_lt_of_listOk hs b, ih (listOk_cons_erase hs b)⟩

theorem itemOk_blockItems (w : Word) (column : List Byte) : ∀ item ∈ blockItems w column, itemOk item :=
  List.forall_mem_append.2 ⟨itemOk_wordItems w, itemOk_rankItems (ranksOf_lt (.refl _) column) 0⟩

theorem length_blockItems_le (w : Word) (column : List Byte) :
    (blockItems w column).length ≤ 2 * column.length + 5 := by
  have hrank := length_rankItems_le (ranksOf initialList column) 0
  have hword : (wordItems w).length = 4 := rfl
  rw [length_ranksOf] at hrank
  rw [blockItems, List.length_append]
  omega

/-! ## One pass of `mtf.encode_block` (R196, R197) -/

/-- `ll(k)` of R196. -/
def columnByte (s : State) (k : Nat) : Byte :=
  arrGet (w := 8) s.block (((arrGet s.zptr k).toNat + s.n.toNat - 1) % s.n.toNat)

theorem lastColumnOf_eq (s : State) : lastColumnOf s = (List.range' 0 s.n.toNat).map (columnByte s) := by
  rw [lastColumnOf, List.range_eq_range']
  rfl

theorem lastColumn_apply {k : Nat} (hk : k < s.n.toNat) (hn : s.n.toNat ≤ capMax s.par) :
    lastColumn k s = .ok (columnByte s k) s := by
  have hplace : precedingPos (arrGet s.zptr k).toNat s.n.toNat < blockSize s :=
    (Nat.mod_lt _ (by omega)).trans_le (hn.trans (Nat.le_add_right ..))
  rw [lastColumn, seq_bind_of_ok (seq_get s), seq_bind_of_ok (readZptr_of_lt (hk.trans_le hn)),
    readBlock_of_lt hplace]
  rfl

/-- `b` moved to the front of the list (R192, R199). -/
def movedToFront (b : Byte) (s : State) : State := { s with yy := b :: s.yy.erase b }

/-- Sending symbols beside the list and the pending zeroes. -/
theorem encodeItems_beside {items : List Item} {c t : State} (hpar : c.par = s.par)
    (h : encodeItems items s = .ok () t) :
    encodeItems items (withCoder c s) = .ok () (withCoder c t) ∧ c.par = t.par := by
  have hlocal := coderLocal_encodeItems items
  exact ⟨hlocal.of_ok hpar h, hpar.trans (hlocal.par_eq h).symm⟩

theorem flushZpOp_apply {c t : State} (hpar : c.par = s.par)
    (h : encodeItems (runItems c.zp.toNat) s = .ok () t) :
    flushZpOp (withCoder c s) = .ok () (withCoder { c with zp := 0#32 } t) := by
  rw [flushZpOp, seq_bind_of_ok (seq_get _), sendZeroesOp_eq]
  exact seq_bind_of_ok (encodeItems_beside hpar h).1 _

theorem encodePass_zero {c : State} {k : Nat} (hlist : listOk c) (hk : k < c.n.toNat)
    (hn : c.n.toNat ≤ capMax c.par) (hrank : c.yy.idxOf (columnByte c k) = 0) :
    encodePass k (withCoder c s) =
      .ok () (withCoder { movedToFront (columnByte c k) c with zp := c.zp + 1#32 } s) := by
  rw [encodePass, seq_bind_of_ok (lastColumn_apply (s := withCoder c s) hk hn),
    seq_bind_of_ok (mtfRankOp_apply (s := withCoder c s) hlist _)]
  exact congrFun (if_pos hrank) _

theorem encodePass_value {c t u : State} {k : Nat} (hlist : listOk c) (hk : k < c.n.toNat)
    (hn : c.n.toNat ≤ capMax c.par) (hrank : c.yy.idxOf (columnByte c k) ≠ 0) (hpar : c.par = s.par)
    (hrun : encodeItems (runItems c.zp.toNat) s = .ok () t)
    (hvalue : encodeItems (valueItems (c.yy.idxOf (columnByte c k))) t = .ok () u) :
    encodePass k (withCoder c s) =
      .ok () (withCoder { movedToFront (columnByte c k) c with zp := 0#32 } u) := by
  obtain ⟨-, hpart⟩ := encodeItems_beside hpar hrun
  have hflush := flushZpOp_apply (c := movedToFront (columnByte c k) c) hpar hrun
  have hsend := (encodeItems_beside
    (c := { movedToFront (columnByte c k) c with zp := 0#32 }) hpart hvalue).1
  rw [← sendValOp_eq hrank] at hsend
  rw [encodePass, seq_bind_of_ok (lastColumn_apply (s := withCoder c s) hk hn),
    seq_bind_of_ok (mtfRankOp_apply (s := withCoder c s) hlist _)]
  exact (congrFun (if_neg hrank) _).trans ((seq_bind_of_ok hflush _).trans hsend)

/-! ## The block (R197) -/

/-- The column's places from `i` on, and what closes the block. -/
def encodeRest (i k : Nat) : Seq Unit := do
  loopUp encodePass i k
  flushZpOp
  sendEobOp

theorem encodeRest_succ {i k : Nat} {t : State} (h : encodePass i s = .ok () t) :
    encodeRest i (k + 1) s = encodeRest (i + 1) k t := by
  rw [encodeRest, loopUp_succ, bind_assoc, seq_bind_of_ok h, encodeRest]

/-- From any place on, the symbols of the ranks still to come are sent, and the list moves on. -/
theorem encodeRest_sends (k : Nat) {c s u : State} {i : Nat} (hlist : listOk c) (hpar : c.par = s.par)
    (hi : i + k = c.n.toNat) (hn : c.n.toNat ≤ capMax c.par) (hzp : c.zp.toNat ≤ i)
    (h : encodeItems (rankItems c.zp.toNat (ranksOf c.yy ((List.range' i k).map (columnByte c)))) s =
      .ok () u) :
    encodeRest i k (withCoder c s) =
      .ok () (withCoder { c with
        yy := listAfter c.yy ((List.range' i k).map (columnByte c)), zp := 0#32 } u) := by
  induction k generalizing c s i with
  | zero =>
    rw [List.range'_zero, List.map_nil, ranksOf, rankItems_nil] at h
    obtain ⟨t, hrun, heob⟩ := encodeItems_append_ok h
    obtain ⟨-, hpart⟩ := encodeItems_beside hpar hrun
    rw [encodeItems_singleton] at heob
    rw [encodeRest, loopUp, pure_bind, seq_bind_of_ok (flushZpOp_apply hpar hrun)]
    exact (coderLocal_encodeOp _ _).of_ok hpart heob
  | succ k ih =>
    rw [List.range'_succ, List.map_cons, ranksOf] at h
    rw [List.range'_succ, List.map_cons]
    have hmoved := listOk_cons_erase hlist (columnByte c i)
    have hnext : i + 1 + k = c.n.toNat := by omega
    by_cases h0 : c.yy.idxOf (columnByte c i) = 0
    · have hcount : (c.zp + 1#32).toNat = c.zp.toNat + 1 := by
        have := c.n.isLt
        rw [BitVec.toNat_add, BitVec.toNat_ofNat]
        omega
      rw [h0, rankItems_zero, ← hcount] at h
      rw [encodeRest_succ (encodePass_zero hlist (by omega) hn h0)]
      exact ih (c := { movedToFront (columnByte c i) c with zp := c.zp + 1#32 }) hmoved hpar hnext
        hn (by dsimp only; omega) h
    · rw [rankItems_value _ h0] at h
      obtain ⟨t, hrun, h⟩ := encodeItems_append_ok h
      obtain ⟨v, hvalue, h⟩ := encodeItems_append_ok h
      obtain ⟨-, hpart⟩ := encodeItems_beside hpar hrun
      obtain ⟨-, hparv⟩ := encodeItems_beside hpart hvalue
      rw [encodeRest_succ (encodePass_value hlist (by omega) hn h0 hpar hrun hvalue)]
      exact ih (c := { movedToFront (columnByte c i) c with zp := 0#32 }) hmoved hparv hnext
        hn (Nat.zero_le _) h

/-- The list and the pending zeroes as ENCODE starts them (R197). -/
def encodeStarted (s : State) : State := { s with yy := initialList, zp := 0#32 }

/-- ENCODE is the encoding of the block's symbols from fresh models and the identity list. -/
theorem encodeBlockOp_sends {u : State} (hn : s.n.toNat ≤ capMax s.par)
    (h : encodeItems (blockItems (origWord s.finalBlock s.origptr) (lastColumnOf s))
      { s with models := initialModels s.par } = .ok () u) :
    encodeBlockOp s =
      .ok () (withCoder { s with yy := listAfter initialList (lastColumnOf s), zp := 0#32 } u) := by
  obtain ⟨v, hword, hranks⟩ := encodeItems_append_ok h
  obtain ⟨hsent, hparv⟩ := encodeItems_beside (c := encodeStarted s)
    (s := { s with models := initialModels s.par }) rfl hword
  rw [← putU32Op_eq] at hsent
  rw [lastColumnOf_eq] at hranks ⊢
  have hrest := encodeRest_sends s.n.toNat (c := encodeStarted s) (i := 0) (.refl _) hparv
    (Nat.zero_add _) hn (Nat.zero_le _) hranks
  exact (seq_bind_of_ok hsent _).trans hrest

/-- Settles O50: beside the list and the pending zeroes ENCODE does what the encoding of the block's symbols
does, for which BO has room. -/
theorem encodeBlockSendsTheBlock : Obligations.EncodeBlockSendsTheBlock := by
  intro s hp hn _ henc
  have hlen := length_blockItems_le (origWord s.finalBlock s.origptr) (lastColumnOf s)
  rw [lastColumnOf, List.length_map, List.length_range, ← lastColumnOf] at hlen
  obtain ⟨u, j, hop, hu, hencu, hw⟩ := encodeItems_within (k := 0)
    (modelsOk_initialModels (s := { s with models := initialModels s.par }) hp rfl)
    (itemOk_blockItems _ _) (encoderOk.mono (s := { s with models := initialModels s.par }) henc hlen)
  have hframe := hw.frame
  have hblock := encodeBlockOp_sends hn hop
  refine ⟨_, u, perform_of_ok hblock, performPhase_of_ok hblock, hop, hframe, ?_,
    hu.congr rfl ?_, hencu⟩
  · rw [hframe]
    rfl
  · rw [hframe]
    rfl

end Sys2Proof.Machine
end

/-! PROOFS. The family `43_mtf_codec.md`, columns and the symbol sequences of R97: every sequence that codes a block is
that of exactly one column. -/
section
namespace Sys2Proof.Machine

/-! ## Run digits and values in a sequence (R101, R102) -/

/-- Two plus twice a run starts with RUNA, one plus twice a run with RUNB (R102). -/
theorem runString_digit (d : RunDigit) (k : Nat) :
    runString (digitWeight d + 2 * k) = d :: runString k := by
  cases d with
  | runa =>
    rw [show digitWeight .runa + 2 * k = 2 * k + 1 + 1 by rw [digitWeight]; omega, runString_succ,
      Nat.testBit_zero, show (2 * k + 1) / 2 = k by omega]
    simp [show (2 * k + 1 + 2) % 2 = 1 by omega]
  | runb =>
    rw [show digitWeight .runb + 2 * k = 2 * k + 1 by rw [digitWeight]; omega, runString_succ,
      Nat.testBit_zero, show 2 * k / 2 = k by omega]
    simp [show (2 * k + 2) % 2 = 0 by omega]

theorem runItems_digit (d : RunDigit) (k : Nat) :
    runItems (digitWeight d + 2 * k) = (basisModel, digitSymbol d) :: runItems k := by
  rw [runItems, runString_digit, List.map_cons, ← runItems]

/-- The class and the offset of a value say which one it is (R101). -/
theorem valueItems_class {c off : Nat} (h1 : 1 ≤ c) (hoff : off < 2 ^ c) :
    valueItems (2 ^ c + off) = [(basisModel, c + 2), (classModel c, off)] := by
  have hpow : 2 ^ 1 ≤ 2 ^ c := Nat.pow_le_pow_right (by decide) h1
  have hlog : Nat.log2 (2 ^ c + off) = c :=
    (Nat.log2_eq_iff (by omega)).2 ⟨Nat.le_add_right _ _, by rw [pow_succ]; omega⟩
  rw [valueItems, if_neg (by omega), hlog, Nat.add_sub_cancel_left, Nat.add_comm 2 c]
  rfl

/-- A value is ONE, or of a class 1 to 7 (R101). -/
theorem value_cases {v : Nat} (h0 : v ≠ 0) (h256 : v < 256) :
    v = 1 ∨ ∃ c off, 1 ≤ c ∧ c ≤ 7 ∧ off < 2 ^ c ∧ v = 2 ^ c + off := by
  by_cases h1 : v = 1
  · exact .inl h1
  have hle : 2 ^ Nat.log2 v ≤ v := Nat.log2_self_le h0
  have hlt : v < 2 ^ (Nat.log2 v + 1) := Nat.lt_log2_self
  rw [pow_succ] at hlt
  exact .inr ⟨Nat.log2 v, v - 2 ^ Nat.log2 v, (Nat.le_log2 h0).2 (by omega),
    Nat.le_of_lt_succ ((Nat.log2_lt h0).2 h256), by omega, by omega⟩

/-! ## Sequences that code a block (R97, R198) -/

theorem blockString_eob_cons (rest : List Item) :
    blockString ((basisModel, symEob) :: rest) = rest.isEmpty := by
  rw [blockString.eq_def]
  simp

/-- A run digit or ONE. -/
theorem blockString_low {sym : Nat} (h : sym ≤ symOne) (rest : List Item) :
    blockString ((basisModel, sym) :: rest) = blockString rest := by
  have heob : sym ≠ symEob := by
    simp only [symOne, symEob] at h ⊢
    omega
  rw [blockString.eq_def]
  simp [heob, h]

/-- A class symbol and its offset. -/
theorem blockString_class {c off : Nat} (h1 : 1 ≤ c) (h7 : c ≤ 7) (hoff : off < 2 ^ c)
    (rest : List Item) :
    blockString ((basisModel, c + 2) :: (classModel c, off) :: rest) = blockString rest := by
  have hc : (classModel c).val = c := Nat.mod_eq_of_lt (by omega)
  have heob : c + 2 < symEob := by simp only [symEob]; omega
  have hone : ¬ c + 2 ≤ symOne := by simp only [symOne]; omega
  rw [blockString.eq_def]
  simp [heob, heob.ne, hone, hc, hoff]

theorem blockString_digit (d : RunDigit) (rest : List Item) :
    blockString ((basisModel, digitSymbol d) :: rest) = blockString rest :=
  blockString_low (by cases d <;> decide) rest

theorem blockString_runItems (k : Nat) (rest : List Item) :
    blockString (runItems k ++ rest) = blockString rest := by
  rw [runItems]
  induction runString k with
  | nil => rfl
  | cons d digits ih => rw [List.map_cons, List.cons_append, blockString_digit, ih]

theorem blockString_valueItems {v : Nat} (h0 : v ≠ 0) (h256 : v < 256) (rest : List Item) :
    blockString (valueItems v ++ rest) = blockString rest := by
  obtain rfl | ⟨c, off, h1, h7, hoff, rfl⟩ := value_cases h0 h256
  · exact blockString_low le_rfl rest
  · rw [valueItems_class h1 hoff]
    exact blockString_class h1 h7 hoff rest

theorem blockString_rankItems {ranks : List Nat} (h : ∀ j ∈ ranks, j < 256) (zp : Nat) :
    blockString (rankItems zp ranks) = true := by
  induction ranks generalizing zp with
  | nil => rw [rankItems_nil, blockString_runItems, blockString_eob_cons, List.isEmpty_nil]
  | cons j rest ih =>
    obtain ⟨hj, hrest⟩ := List.forall_mem_cons.1 h
    by_cases h0 : j = 0
    · rw [h0, rankItems_zero]
      exact ih hrest _
    · rw [rankItems_value zp h0, blockString_runItems, blockString_valueItems h0 hj]
      exact ih hrest 0

theorem blockString_of_ne {m : ModelId} (hm : m ≠ basisModel) (sym : Nat) (rest : List Item) :
    blockString ((m, sym) :: rest) = false := by
  rw [blockString.eq_def]
  simp [hm]

/-- A symbol above ONE that is not EOB is a class symbol with its offset after it. -/
theorem exists_offset_of_blockString {sym : Nat} (hone : ¬ sym ≤ symOne) (heob : sym ≠ symEob)
    {rest : List Item} (h : blockString ((basisModel, sym) :: rest) = true) :
    ∃ c off rest', 1 ≤ c ∧ c ≤ 7 ∧ off < 2 ^ c ∧
      (basisModel, sym) :: rest = valueItems (2 ^ c + off) ++ rest' ∧ blockString rest' = true := by
  rw [blockString.eq_def] at h
  match rest with
  | [] => simp [hone, heob] at h
  | (c, off) :: rest' =>
    simp only [ne_eq, not_true_eq_false, heob, hone, Bool.and_eq_true, decide_eq_true_eq, ite_false] at h
    obtain ⟨⟨⟨hlt, rfl⟩, hoff⟩, hrest⟩ := h
    simp only [symOne, symEob] at hone hlt
    have hc : classModel c.val = c := Fin.ext (Nat.mod_eq_of_lt c.isLt)
    refine ⟨c.val, off, rest', by omega, by omega, hoff, ?_, hrest⟩
    rw [valueItems_class (by omega) hoff, hc]
    rfl

/-- What a sequence that codes a block begins with. -/
theorem blockString_cases {items : List Item} (h : blockString items = true) :
    items = [(basisModel, symEob)] ∨
      (∃ d rest, items = (basisModel, digitSymbol d) :: rest ∧ blockString rest = true) ∨
      ∃ v rest, v ≠ 0 ∧ v < 256 ∧ items = valueItems v ++ rest ∧ blockString rest = true := by
  match items with
  | [] => cases h
  | (m, sym) :: rest =>
    obtain rfl : m = basisModel := by
      by_contra hm
      rw [blockString_of_ne hm] at h
      cases h
    by_cases heob : sym = symEob
    · rw [heob, blockString_eob_cons, List.isEmpty_iff] at h
      exact .inl (by rw [heob, h])
    by_cases hone : sym ≤ symOne
    · rw [blockString_low hone] at h
      have hlow : sym = symRuna ∨ sym = symRunb ∨ sym = symOne := by
        simp only [symRuna, symRunb, symOne] at hone ⊢
        omega
      obtain rfl | rfl | rfl := hlow
      · exact .inr (.inl ⟨.runa, rest, rfl, h⟩)
      · exact .inr (.inl ⟨.runb, rest, rfl, h⟩)
      · exact .inr (.inr ⟨1, rest, by decide, by decide, rfl, h⟩)
    · obtain ⟨c, off, rest', h1, h7, hoff, hitems, hrest⟩ := exists_offset_of_blockString hone heob h
      have hpow := Nat.two_pow_pos c
      exact .inr (.inr ⟨2 ^ c + off, rest', by omega, class_value_lt h7 hoff, hitems, hrest⟩)

/-! ## The ranks a sequence stands for -/

/-- A digit before a value or before EOB makes the run longer. -/
theorem rankItems_digit (d : RunDigit) (zp : Nat) {ranks : List Nat} (h : ranks.head? ≠ some 0) :
    rankItems (digitWeight d + 2 * zp) ranks = (basisModel, digitSymbol d) :: rankItems zp ranks := by
  cases ranks with
  | nil => rw [rankItems_nil, rankItems_nil, runItems_digit, List.cons_append]
  | cons j rest =>
    have hj : j ≠ 0 := fun h0 => h (by rw [h0, List.head?_cons])
    rw [rankItems_value _ hj, rankItems_value _ hj, runItems_digit, List.cons_append]

theorem rankItems_zeros (k : Nat) {zp : Nat} (ranks : List Nat) :
    rankItems zp (List.replicate k 0 ++ ranks) = rankItems (zp + k) ranks := by
  induction k generalizing zp with
  | zero => rfl
  | succ k ih =>
    rw [List.replicate_succ, List.cons_append, rankItems_zero, ih, Nat.add_right_comm, Nat.add_assoc]

/-- Every sequence that codes a block is that of some ranks. -/
theorem exists_rankItems (n : Nat) {items : List Item} (hn : items.length ≤ n)
    (h : blockString items = true) :
    ∃ zp ranks, rankItems zp ranks = items ∧ ranks.head? ≠ some 0 ∧ ∀ j ∈ ranks, j < 256 := by
  induction n generalizing items with
  | zero =>
    rw [List.length_eq_zero_iff.1 (Nat.le_zero.1 hn)] at h
    cases h
  | succ n ih =>
    obtain rfl | ⟨d, rest, rfl, hrest⟩ | ⟨v, rest, h0, h256, rfl, hrest⟩ := blockString_cases h
    · exact ⟨0, [], rfl, nofun, nofun⟩
    · obtain ⟨zp, ranks, rfl, hhead, hranks⟩ := ih (Nat.le_of_succ_le_succ hn) hrest
      exact ⟨_, ranks, rankItems_digit d zp hhead, hhead, hranks⟩
    · have hpos : 1 ≤ (valueItems v).length := by
        unfold valueItems
        split <;> simp
      rw [List.length_append] at hn
      obtain ⟨zp, ranks, rfl, hhead, hranks⟩ := ih (by omega) hrest
      refine ⟨0, v :: (List.replicate zp 0 ++ ranks), ?_, fun hv => h0 (Option.some.inj hv), ?_⟩
      · rw [rankItems_value 0 h0, rankItems_zeros, Nat.zero_add]
        rfl
      · refine List.forall_mem_cons.2 ⟨h256, List.forall_mem_append.2 ⟨fun j hj => ?_, hranks⟩⟩
        rw [List.eq_of_mem_replicate hj]
        decide

/-- The ranks read off a sequence, after run digits that amount to `a` and whose next one weighs `w` times its
own weight. -/
def ranksRead : Nat → Nat → List Item → List Nat
  | _, _, [] => []
  | a, w, (_, sym) :: rest =>
    if sym = symRuna then ranksRead (a + 2 * w) (2 * w) rest
    else if sym = symRunb then ranksRead (a + w) (2 * w) rest
    else if sym = symEob then List.replicate a 0
    else if sym = symOne then List.replicate a 0 ++ 1 :: ranksRead 0 1 rest
    else
      match rest with
      | [] => []
      | (_, off) :: rest' => List.replicate a 0 ++ (2 ^ (sym - 2) + off) :: ranksRead 0 1 rest'

theorem ranksRead_digit (d : RunDigit) (a w : Nat) (rest : List Item) :
    ranksRead a w ((basisModel, digitSymbol d) :: rest) =
      ranksRead (a + digitWeight d * w) (2 * w) rest := by
  rw [ranksRead.eq_def]
  cases d <;> simp [digitSymbol, digitWeight, symRuna, symRunb]

theorem ranksRead_digits (digits : List RunDigit) (a w : Nat) (rest : List Item) :
    ranksRead a w ((digits.map fun d => (basisModel, digitSymbol d)) ++ rest) =
      ranksRead (a + w * runValue digits) (w * 2 ^ digits.length) rest := by
  induction digits generalizing a w with
  | nil => simp [runValue]
  | cons d digits ih =>
    rw [List.map_cons, List.cons_append, ranksRead_digit, ih, runValue, List.length_cons]
    congr 1 <;> ring

theorem ranksRead_runItems (k : Nat) (rest : List Item) :
    ranksRead 0 1 (runItems k ++ rest) = ranksRead k (2 ^ (runString k).length) rest := by
  rw [runItems, ranksRead_digits, runValue_runString, Nat.zero_add, Nat.one_mul, Nat.one_mul]

theorem ranksRead_valueItems {v : Nat} (h0 : v ≠ 0) (h256 : v < 256) (a w : Nat) (rest : List Item) :
    ranksRead a w (valueItems v ++ rest) = List.replicate a 0 ++ v :: ranksRead 0 1 rest := by
  obtain rfl | ⟨c, off, h1, h7, hoff, rfl⟩ := value_cases h0 h256
  · rw [ranksRead.eq_def]
    rfl
  · have hsym : c + 2 ≠ symRuna ∧ c + 2 ≠ symRunb ∧ c + 2 ≠ symEob ∧ c + 2 ≠ symOne := by
      simp only [symRuna, symRunb, symEob, symOne]
      omega
    rw [valueItems_class h1 hoff, ranksRead.eq_def]
    simp [hsym]

/-- Reading undoes writing, so different ranks have different symbols. -/
theorem ranksRead_rankItems {ranks : List Nat} (h : ∀ j ∈ ranks, j < 256) (zp : Nat) :
    ranksRead 0 1 (rankItems zp ranks) = List.replicate zp 0 ++ ranks := by
  induction ranks generalizing zp with
  | nil =>
    rw [rankItems_nil, ranksRead_runItems, List.append_nil]
    rfl
  | cons j rest ih =>
    obtain ⟨hj, hrest⟩ := List.forall_mem_cons.1 h
    by_cases h0 : j = 0
    · rw [h0, rankItems_zero, ih hrest, List.replicate_succ', List.append_assoc]
      rfl
    · rw [rankItems_value zp h0, ranksRead_runItems, ranksRead_valueItems h0 hj, ih hrest]
      rfl

/-! ## The column of a sequence of ranks (R190) -/

theorem exists_ranksOf {ranks : List Nat} (h : ∀ j ∈ ranks, j < 256) {yy : List Byte}
    (hyy : yy.Perm initialList) : ∃ column, ranksOf yy column = ranks := by
  induction ranks generalizing yy with
  | nil => exact ⟨[], rfl⟩
  | cons j rest ih =>
    obtain ⟨hj, hrest⟩ := List.forall_mem_cons.1 h
    have hs : listOk { State.reset with yy := yy } := hyy
    obtain ⟨column, hcolumn⟩ := ih hrest (listOk_cons_erase hs (yy.getD j 0#8))
    exact ⟨yy.getD j 0#8 :: column, List.cons_eq_cons.2 ⟨idxOf_getD_of_listOk hs hj, hcolumn⟩⟩

theorem ranksOf_injective {xs ys yy : List Byte} (hyy : yy.Perm initialList)
    (h : ranksOf yy xs = ranksOf yy ys) : xs = ys := by
  induction xs generalizing ys yy with
  | nil =>
    cases ys with
    | nil => rfl
    | cons b ys => cases h
  | cons a xs ih =>
    cases ys with
    | nil => cases h
    | cons b ys =>
      have hs : listOk { State.reset with yy := yy } := hyy
      obtain ⟨hrank, hrest⟩ := List.cons.inj h
      obtain rfl : a = b := by
        have ha := getD_idxOf_of_listOk hs a
        have hb := getD_idxOf_of_listOk hs b
        dsimp only at ha hb
        rw [← ha, hrank, hb]
      rw [ih (listOk_cons_erase hs a) hrest]

/-- "Every sequence of basis and class symbols that ends in EOB" is that of exactly one column. -/
theorem existsUnique_column {items : List Item} (h : blockString items = true) :
    ∃ column, rankItems 0 (ranksOf initialList column) = items ∧
      ∀ other, rankItems 0 (ranksOf initialList other) = items → other = column := by
  obtain ⟨zp, ranks, hitems, -, hranks⟩ := exists_rankItems items.length le_rfl h
  have hall : ∀ j ∈ List.replicate zp 0 ++ ranks, j < 256 :=
    List.forall_mem_append.2 ⟨fun j hj => by rw [List.eq_of_mem_replicate hj]; decide, hranks⟩
  obtain ⟨column, hcolumn⟩ := exists_ranksOf hall (.refl initialList)
  have hcolumnItems : rankItems 0 (ranksOf initialList column) = items := by
    rw [hcolumn, rankItems_zeros, Nat.zero_add, hitems]
  refine ⟨column, hcolumnItems, fun other hother => ranksOf_injective (.refl initialList) ?_⟩
  have hread := ranksRead_rankItems (ranksOf_lt (.refl _) other) 0
  have hread' := ranksRead_rankItems (ranksOf_lt (.refl _) column) 0
  rw [List.replicate_zero, List.nil_append] at hread hread'
  rw [← hread, ← hread', hother, hcolumnItems]

end Sys2Proof.Machine
end

/-! PROOFS. The family `43_mtf_codec.md`, DECODE (O60): the loop stores a run, then a value, and at EOB it has stored
the column whose symbols it read. -/
section
namespace Sys2Proof.Machine

/-! ## Sequences read (R97) -/

/-- The decoder, in `s`, reads the symbols `items` and ends in `u`. -/
def Reads (items : List Item) (s u : State) : Prop :=
  decodeItems (items.map Prod.fst) s = .ok (items.map Prod.snd) u

theorem Reads.cons {m : ModelId} {sym : Nat} {rest : List Item} {s u : State}
    (h : Reads ((m, sym) :: rest) s u) :
    ∃ t, decodeOp m s = .ok sym t ∧ t.par = s.par ∧ Reads rest t u := by
  obtain ⟨sym', syms, t, hout, hop, hrest⟩ := decodeItems_cons_ok h
  obtain ⟨rfl, rfl⟩ := List.cons.inj hout
  exact ⟨t, hop, (coderLocal_decodeOp m).par_eq hop, hrest⟩

theorem Reads.append {xs ys : List Item} {s u : State} (h : Reads (xs ++ ys) s u) :
    ∃ t, Reads xs s t ∧ t.par = s.par ∧ Reads ys t u := by
  induction xs generalizing s with
  | nil => exact ⟨s, rfl, rfl, h⟩
  | cons item rest ih =>
    obtain ⟨t, hop, hpar, hrest⟩ := Reads.cons h
    obtain ⟨v, hxs, hparv, hys⟩ := ih hrest
    exact ⟨v, decodeItems_cons_of_ok hop hxs, hparv.trans hpar, hys⟩

/-- Reading changes the coder alone. -/
theorem Reads.frame {items : List Item} {s u : State} (h : Reads items s u) : u = withCoder s u :=
  (coderLocal_decodeItems _).frame h

/-! ## The loop of `mtf.decode_block` (R200) -/

section Loop

variable {c s t u : State} {fuel : Nat}

theorem decodeLoop_of_received {sym : Nat} (hpar : c.par = s.par) (hop : decodeOp basisModel s = .ok sym t) :
    decodeLoop (fuel + 1) (withCoder c s) =
      (do let eob ← basisReceived sym; if eob then pure () else decodeLoop fuel) (withCoder c t) := by
  rw [decodeLoop, seq_bind_of_ok ((coderLocal_decodeOp _).of_ok hpar hop)]

/-- A symbol other than EOB, once it is received. -/
theorem decodeLoop_of_more {sym : Nat} {v : State} (hpar : c.par = s.par)
    (hop : decodeOp basisModel s = .ok sym t) (hmore : basisReceived sym (withCoder c t) = .ok false v) :
    decodeLoop (fuel + 1) (withCoder c s) = decodeLoop fuel v := by
  rw [decodeLoop_of_received hpar hop, seq_bind_of_ok hmore]
  rfl

theorem decodeLoop_of_eob {v : State} (hpar : c.par = s.par)
    (hop : decodeOp basisModel s = .ok symEob t) (heob : flushRunOp (withCoder c t) = .ok () v) :
    decodeLoop (fuel + 1) (withCoder c s) = .ok () v := by
  rw [decodeLoop_of_received hpar hop, basisReceived_eob, bind_assoc, seq_bind_of_ok heob]
  rfl

theorem basisReceived_digit_of_fits {d : RunDigit} {a w : Nat}
    (h : c.pos.toNat + (a + digitWeight d * w) ≤ capOf c) :
    basisReceived (digitSymbol d) (withCoder (withRun c a w) t) =
      .ok false (withCoder (withRun c (a + digitWeight d * w) (2 * w)) t) := by
  have hop := absorbOp_withRun (s := withCoder c t) h
  rw [basisReceived_digit]
  exact seq_bind_of_ok hop _

/-- The digits of a run that fits are absorbed, each by one pass. -/
theorem decodeLoop_digits (digits : List RunDigit) {a w : Nat} {rest : List Item} (hpar : c.par = s.par)
    (hfit : c.pos.toNat + (a + w * runValue digits) ≤ capOf c)
    (h : Reads ((digits.map fun d => (basisModel, digitSymbol d)) ++ rest) s u) :
    ∃ t, c.par = t.par ∧ Reads rest t u ∧
      decodeLoop (fuel + digits.length) (withCoder (withRun c a w) s) =
        decodeLoop fuel (withCoder (withRun c (a + w * runValue digits) (w * 2 ^ digits.length)) t) := by
  induction digits generalizing a w s with
  | nil =>
    refine ⟨s, hpar, h, ?_⟩
    simp [runValue]
  | cons d digits ih =>
    have hsum : a + w * runValue (d :: digits) = a + digitWeight d * w + 2 * w * runValue digits := by
      rw [runValue]
      ring
    have hlen : w * 2 ^ (d :: digits).length = 2 * w * 2 ^ digits.length := by
      rw [List.length_cons]
      ring
    rw [hsum] at hfit
    obtain ⟨t, hop, hpart, hrest⟩ := Reads.cons h
    obtain ⟨v, hparv, hreads, hloop⟩ := ih (hpar.trans hpart.symm) hfit hrest
    refine ⟨v, hparv, hreads, ?_⟩
    rw [hsum, hlen, ← hloop]
    exact decodeLoop_of_more hpar hop (basisReceived_digit_of_fits (by omega))

/-- The run string of `k` leaves a run of length `k`. -/
theorem decodeLoop_runItems {k : Nat} {rest : List Item} (hpar : c.par = s.par) (hacc : c.runacc = 0#32)
    (hw : c.runw = 1#32) (hfit : c.pos.toNat + k ≤ capOf c) (hfuel : k < fuel)
    (h : Reads (runItems k ++ rest) s u) :
    ∃ t fuel', c.par = t.par ∧ Reads rest t u ∧ fuel ≤ fuel' + 1 + k ∧
      decodeLoop fuel (withCoder c s) =
        decodeLoop (fuel' + 1) (withCoder (withRun c k (2 ^ (runString k).length)) t) := by
  have hlen : (runString k).length ≤ k := by
    have := length_runItems_le_self k
    rwa [runItems, List.length_map] at this
  obtain ⟨fuel', rfl⟩ := Nat.exists_eq_add_of_lt (hlen.trans_lt hfuel)
  have hc : withRun c 0 1 = c := by
    rw [withRun, ← hacc, ← hw]
  obtain ⟨t, hpart, hreads, hloop⟩ :=
    decodeLoop_digits (fuel := fuel' + 1) (runString k) (a := 0) (w := 1) hpar
      (by rw [runValue_runString]; omega) h
  rw [hc, runValue_runString, Nat.zero_add, Nat.one_mul, Nat.one_mul] at hloop
  refine ⟨t, fuel', hpart, hreads, by omega, ?_⟩
  rw [← hloop]
  congr 1
  omega

/-- What DECODE's loop rests on between values: LL can take bytes, and no run is pending. -/
structure BetweenRuns (c : State) : Prop where
  ready : LlReady c
  runacc : c.runacc = 0#32
  runw : c.runw = 1#32

/-- `t` is `c` with `bytes` stored, the list at `yy`, and no run pending. -/
structure Stored (c : State) (bytes yy : List Byte) (t : State) : Prop where
  appends : appendsLl c t bytes
  frame : t = { c with
    ll := t.ll, pos := c.pos + BitVec.ofNat 32 bytes.length, yy := yy, runacc := 0#32, runw := 1#32 }

namespace Stored

variable {xs ys yy yy' : List Byte}

theorem yy_eq (h : Stored c xs yy t) : t.yy = yy := by rw [h.frame]

theorem par_eq (h : Stored c xs yy t) : t.par = c.par := by rw [h.frame]

theorem capOf_eq (h : Stored c xs yy t) : capOf t = capOf c := by
  rw [h.frame]
  rfl

theorem toNat_pos (h : Stored c xs yy t) (hfit : c.pos.toNat + xs.length ≤ capOf c) :
    t.pos.toNat = c.pos.toNat + xs.length := by
  rw [h.frame]
  exact toNat_pos_add hfit

theorem trans (h1 : Stored c xs yy t) (h2 : Stored t ys yy' u)
    (hfit : c.pos.toNat + xs.length ≤ capOf c) : Stored c (xs ++ ys) yy' u := by
  refine ⟨appendsLl_append (h1.toNat_pos hfit) h1.appends h2.appends, ?_⟩
  rw [h2.frame, h1.frame, List.length_append, BitVec.ofNat_add, ← BitVec.add_assoc]

end Stored

/-- The end of a run of length `k` (R200). -/
theorem flushRunOp_withRun {k : Nat} (h : LlReady c) (hfit : c.pos.toNat + k ≤ capOf c) :
    ∃ f, flushRunOp (withCoder (withRun c k (2 ^ (runString k).length)) t) = .ok () (withCoder f t) ∧
      BetweenRuns f ∧ Stored c (List.replicate k (c.yy.getD 0 0#8)) c.yy f := by
  have hk : (BitVec.ofNat 32 k).toNat = k := by
    have := capOf_lt c
    rw [BitVec.toNat_ofNat]
    omega
  have hready : LlReady (withCoder (withRun c k (2 ^ (runString k).length)) t) := ⟨h.wf, h.cap, h.list⟩
  obtain ⟨f, hop, hf, happ, hframe⟩ := flushRunOp_stores hready (by
    change c.pos.toNat + (BitVec.ofNat 32 k).toNat ≤ capOf c
    rwa [hk])
  have hrunw : (if BitVec.ofNat 32 k = 0#32 then BitVec.ofNat 32 (2 ^ (runString k).length) else 1#32) =
      1#32 := by
    split
    next h0 =>
      have hzero : k = 0 := by rw [← hk, h0]; rfl
      rw [hzero, runString_zero]
      rfl
    next => rfl
  refine ⟨{ c with
      ll := f.ll, pos := c.pos + BitVec.ofNat 32 k, runacc := 0#32
      runw := if BitVec.ofNat 32 k = 0#32 then BitVec.ofNat 32 (2 ^ (runString k).length) else 1#32 }, ?_,
    ⟨⟨hf.wf, h.cap, h.list⟩, rfl, hrunw⟩, ⟨?_, ?_⟩⟩
  · rw [hop, hframe]
    rfl
  · simp only [withRun, withCoder, hk] at happ
    exact happ
  · rw [hrunw, List.length_replicate]

/-- A value that fits is stored (R200). -/
theorem storeValueOp_between {v : Nat} (h : BetweenRuns c) (hv : v < 256)
    (hfit : c.pos.toNat + 1 ≤ capOf c) :
    ∃ g, storeValueOp v (withCoder c t) = .ok () (withCoder g t) ∧ BetweenRuns g ∧
      Stored c [c.yy.getD v 0#8] (c.yy.getD v 0#8 :: c.yy.erase (c.yy.getD v 0#8)) g := by
  have hready : LlReady (withCoder c t) := ⟨h.ready.wf, h.ready.cap, h.ready.list⟩
  obtain ⟨g, hop, hg, happ, hframe⟩ := storeValueOp_stores hready hv hfit
  refine ⟨{ c with
      ll := g.ll, pos := c.pos + 1#32, yy := c.yy.getD v 0#8 :: c.yy.erase (c.yy.getD v 0#8) }, ?_,
    ⟨⟨hg.wf, h.ready.cap, listOk_cons_erase h.ready.list _⟩, h.runacc, h.runw⟩, ⟨happ, ?_⟩⟩
  · rw [hop, hframe]
    rfl
  · rw [h.runacc, h.runw]
    rfl

/-- The symbols of a value: the basis symbol, after which DECODE writes the run out, reads the offset of a
class and stores the value. -/
theorem value_received {v : Nat} {rest : List Item} (h0 : v ≠ 0) (h256 : v < 256)
    (h : Reads (valueItems v ++ rest) s u) :
    ∃ sym t t', decodeOp basisModel s = .ok sym t ∧ t'.par = s.par ∧ Reads rest t' u ∧
      ∀ x f, f.par = s.par → flushRunOp x = .ok () (withCoder f t) →
        basisReceived sym x = (do storeValueOp v; pure false) (withCoder f t') := by
  obtain rfl | ⟨c, off, h1, h7, hoff, rfl⟩ := value_cases h0 h256
  · obtain ⟨t, hop, hpar, hrest⟩ := Reads.cons h
    exact ⟨symOne, t, t, hop, hpar, hrest, fun x f _ => basisReceived_one_of_flushed⟩
  · rw [valueItems_class h1 hoff] at h
    obtain ⟨t, hop, hpar, h⟩ := Reads.cons h
    obtain ⟨t', hop', hpar', hrest⟩ := Reads.cons h
    exact ⟨c + 2, t, t', hop, hpar'.trans hpar, hrest, fun x f hf hflush =>
      basisReceived_class_of_flushed h1 h7 hflush ((coderLocal_decodeOp _).of_ok (hf.trans hpar.symm) hop')⟩

/-- A value after a run of length `k`: both are stored, by one pass. -/
theorem decodeLoop_value {k v : Nat} {rest : List Item} (hpar : c.par = s.par) (h : LlReady c)
    (h0 : v ≠ 0) (h256 : v < 256) (hfit : c.pos.toNat + k + 1 ≤ capOf c)
    (hread : Reads (valueItems v ++ rest) s u) :
    ∃ t g, g.par = t.par ∧ Reads rest t u ∧ BetweenRuns g ∧
      decodeLoop (fuel + 1) (withCoder (withRun c k (2 ^ (runString k).length)) s) =
        decodeLoop fuel (withCoder g t) ∧
      Stored c (List.replicate k (c.yy.getD 0 0#8) ++ [c.yy.getD v 0#8])
        (c.yy.getD v 0#8 :: c.yy.erase (c.yy.getD v 0#8)) g := by
  obtain ⟨sym, t, t', hop, hpart', hrest, hreceived⟩ := value_received h0 h256 hread
  obtain ⟨f, hflush, hf, hstoredf⟩ := flushRunOp_withRun (t := t) h (Nat.le_of_succ_le hfit)
  have hfitk : c.pos.toNat + (List.replicate k (c.yy.getD 0 0#8)).length ≤ capOf c := by
    rw [List.length_replicate]
    omega
  have hposf := hstoredf.toNat_pos hfitk
  have hcapf := hstoredf.capOf_eq
  rw [List.length_replicate] at hposf
  obtain ⟨g, hstore, hg, hstoredg⟩ := storeValueOp_between (t := t') hf h256 (by omega)
  rw [hstoredf.yy_eq] at hstoredg
  refine ⟨t', g, by rw [hstoredg.par_eq, hstoredf.par_eq, hpar, hpart'], hrest, hg, ?_,
    hstoredf.trans hstoredg hfitk⟩
  refine decodeLoop_of_more (c := withRun c k (2 ^ (runString k).length)) hpar hop ?_
  rw [hreceived _ f (hstoredf.par_eq.trans hpar) hflush, seq_bind_of_ok hstore]
  rfl

/-- The loop stores the column of the ranks it reads, after the zeroes pending before it. -/
theorem decodeLoop_column (column : List Byte) {c s : State} {k fuel : Nat} (hpar : c.par = s.par)
    (h : BetweenRuns c) (hfit : c.pos.toNat + k + column.length ≤ capOf c)
    (hfuel : k + column.length < fuel) (hread : Reads (rankItems k (ranksOf c.yy column)) s u) :
    ∃ g, decodeLoop fuel (withCoder c s) = .ok () (withCoder g u) ∧
      Stored c (List.replicate k (c.yy.getD 0 0#8) ++ column) (listAfter c.yy column) g := by
  induction column generalizing c s k fuel with
  | nil =>
    rw [ranksOf, rankItems_nil] at hread
    obtain ⟨t, fuel', hpart, hread, -, hloop⟩ :=
      decodeLoop_runItems hpar h.runacc h.runw hfit hfuel hread
    obtain ⟨v, hop, -, hdone⟩ := Reads.cons hread
    cases hdone
    obtain ⟨f, hflush, -, hstored⟩ := flushRunOp_withRun (t := u) h.ready hfit
    refine ⟨f, ?_, by rwa [List.append_nil]⟩
    rw [hloop]
    exact decodeLoop_of_eob (c := withRun c k (2 ^ (runString k).length)) hpart hop hflush
  | cons b rest ih =>
    rw [List.length_cons] at hfit hfuel
    rw [ranksOf] at hread
    have hbyte := getD_idxOf_of_listOk h.ready.list b
    by_cases h0 : c.yy.idxOf b = 0
    · have hsame := cons_erase_of_idxOf_eq_zero h.ready.list h0
      rw [h0] at hbyte
      rw [h0, rankItems_zero] at hread
      rw [hsame] at hread
      obtain ⟨g, hloop, hstored⟩ := ih (k := k + 1) (fuel := fuel) hpar h (by omega) (by omega) hread
      refine ⟨g, hloop, ?_⟩
      rw [List.replicate_succ', List.append_assoc, hbyte] at hstored
      rw [hbyte, listAfter, List.foldl_cons, hsame]
      exact hstored
    · rw [rankItems_value _ h0] at hread
      obtain ⟨t, fuel', hpart, hread, hle, hloop⟩ :=
        decodeLoop_runItems (fuel := fuel) hpar h.runacc h.runw (by omega) (by omega) hread
      obtain ⟨v, f, hparf, hread, hf, hvalue, hstored⟩ :=
        decodeLoop_value (k := k) (fuel := fuel') hpart h.ready h0 (idxOf_lt_of_listOk h.ready.list b)
          (by omega) hread
      rw [hbyte] at hstored
      have hlen : (List.replicate k (c.yy.getD 0 0#8) ++ [b]).length = k + 1 := by
        rw [List.length_append, List.length_replicate, List.length_singleton]
      have hfitk : c.pos.toNat + (List.replicate k (c.yy.getD 0 0#8) ++ [b]).length ≤ capOf c := by omega
      have hposf := hstored.toNat_pos hfitk
      have hcapf := hstored.capOf_eq
      rw [← hstored.yy_eq] at hread
      obtain ⟨g, hrest, hstoredg⟩ := ih (k := 0) (fuel := fuel') hparf hf (by omega) (by omega) hread
      refine ⟨g, by rw [hloop, hvalue, hrest], ?_⟩
      have hall := hstored.trans hstoredg hfitk
      rw [hstored.yy_eq, List.replicate_zero, List.nil_append, List.append_assoc] at hall
      exact hall

end Loop

/-! ## The block (R200, R203, R311) -/

/-- The list and the run as DECODE starts them, with the flag of the `origPtr` word (R200). -/
def decodeStarted (finalBlock : Bool) (s : State) : State :=
  { s with yy := initialList, runacc := 0#32, runw := 1#32, pos := 0#32, finalBlock := finalBlock }

/-- DECODE before `check_origptr`, which is given the magnitude of the `origPtr` word. -/
theorem decodeBlockOp_restores {s u : State} {w : Word} {column : List Byte} (ha : arraysOk s)
    (hlevel : s.level.toNat ≤ s.par.maxLevel) (hlen : column.length ≤ capOf s)
    (h : Reads (blockItems w column) { s with models := initialModels s.par } u) :
    ∃ t, decodeBlockOp s = checkOrigptrOp (origWordMag w) t ∧
      t = { u with
        yy := listAfter initialList column, runacc := 0#32, runw := 1#32, ll := t.ll
        pos := BitVec.ofNat 32 column.length, n := BitVec.ofNat 32 column.length
        finalBlock := w.getLsbD 31 } ∧
      ∀ i, llAt t i = if i < column.length then column.getD i 0#8 else llAt s i := by
  obtain ⟨v, hword, hpar, hranks⟩ := Reads.append h
  have hget := getU32Op_of_decodeItems ((coderLocal_decodeItems _).of_ok
    (c := decodeStarted s.finalBlock s) (s := { s with models := initialModels s.par }) rfl hword)
  have hstart : BetweenRuns (decodeStarted (origWordFinal w) s) :=
    ⟨.of_level ha (.refl _) hlevel, rfl, rfl⟩
  have hfit : 0 + 0 + column.length ≤ capOf s := by omega
  obtain ⟨g, hloop, happ, hframe⟩ := decodeLoop_column (c := decodeStarted (origWordFinal w) s) (u := u)
    column (k := 0) (fuel := capOf s + 2) hpar.symm hstart hfit (by omega) hranks
  rw [List.replicate_zero, List.nil_append] at happ hframe
  have hpos : (decodeStarted (origWordFinal w) s).pos + BitVec.ofNat 32 column.length =
      BitVec.ofNat 32 column.length := BitVec.zero_add _
  rw [hpos] at hframe
  refine ⟨withCoder { g with n := g.pos } u, ?_, ?_, fun i => (happ i).trans ?_⟩
  · exact (seq_bind_of_ok hget _).trans (seq_bind_of_ok hloop _)
  · rw [hframe, Reads.frame h]
    rfl
  · have hzero : (decodeStarted (origWordFinal w) s).pos.toNat = 0 := rfl
    rw [hzero]
    simp only [Nat.zero_le, true_and, Nat.zero_add, Nat.sub_zero]
    rfl

theorem performPhase_faulted {op : Seq Unit} {s t : State} {f : FaultCode}
    (h : op s = .error (.raise f) t) : performPhase op s = .next (faulted (faultCodeBits f) t) :=
  perform_faulted (by rw [seq_bind, h])

theorem exec_mtfDecodeBlock (s : State) : exec .mtfDecodeBlock s = perform decodeBlockOp s := rfl

theorem exec_phaseDecode (s : State) : exec .phaseDecode s = performPhase decodeBlockOp s := rfl

/-- Settles O60: columns and the sequences of R97 are in bijection, and the loop stores the column whose symbols it
reads. -/
theorem decodeBlockRestoresTheColumn : Obligations.DecodeBlockRestoresTheColumn := by
  refine ⟨fun column => blockString_rankItems (ranksOf_lt (.refl _) column) 0,
    fun items => existsUnique_column, fun s u w column _ ha hlevel hlen h => ?_⟩
  obtain ⟨t, hop, hframe, hll⟩ := decodeBlockOp_restores ha hlevel hlen h
  have hn : t.n.toNat = column.length := by
    have := capOf_lt s
    rw [hframe, BitVec.toNat_ofNat]
    omega
  refine ⟨t, hframe, hll, ?_⟩
  rintro _ rfl
  have hjudged := badOrigptr_iff (origWordMag w) t.n
  rw [hn] at hjudged
  rw [checkOrigptrOp_apply] at hop
  rw [exec_mtfDecodeBlock, exec_phaseDecode]
  refine ⟨fun h0 hmag => ?_, fun hbad => ?_⟩
  · have hfits := hop.trans (if_neg (mt hjudged.1 (not_or.2 ⟨h0, Nat.not_le.2 hmag⟩)))
    exact ⟨perform_of_ok hfits, performPhase_of_ok hfits⟩
  · have hraised := hop.trans (if_pos (hjudged.2 hbad))
    exact ⟨perform_faulted hraised, performPhase_faulted hraised⟩

end Sys2Proof.Machine
end

/-! PROOFS. The family `44_block_sorter.md`: `Completes` says that an operation ends normally, which the sorter's
operations do from every state the statements allow. Each statement form has its rule. -/
section
namespace Sys2Proof.Machine

variable {α β : Type} {s : State}

/-- From `s`, `op` ends normally, in `Q`. -/
structure Completes (s : State) (op : Seq α) (Q : α → State → Prop) : Prop where
  ends : ∃ a t, op s = .ok a t ∧ Q a t

section Rules

variable {op : Seq α} {Q : α → State → Prop} {x : Seq α} {f : α → Seq β} {Q' : β → State → Prop}

theorem Completes.of_ok {a : α} {t : State} (h : op s = .ok a t) (hQ : Q a t) : Completes s op Q :=
  ⟨a, t, h, hQ⟩

theorem Completes.pure {a : α} (h : Q a s) : Completes s (pure a) Q := .of_ok rfl h

theorem Completes.mono {Q₂ : α → State → Prop} (h : Completes s op Q) (hQ : ∀ a t, Q a t → Q₂ a t) :
    Completes s op Q₂ := by
  obtain ⟨a, t, hop, ht⟩ := h.ends
  exact .of_ok hop (hQ a t ht)

theorem Completes.ok_bind {a : α} {t : State} (hx : x s = .ok a t) (hf : Completes t (f a) Q') :
    Completes s (x >>= f) Q' := by
  obtain ⟨b, u, hop, hu⟩ := hf.ends
  exact .of_ok ((seq_bind_of_ok hx f).trans hop) hu

theorem Completes.bind (hx : Completes s x Q) (hf : ∀ a t, Q a t → Completes t (f a) Q') :
    Completes s (x >>= f) Q' := by
  obtain ⟨a, t, hop, ht⟩ := hx.ends
  exact .ok_bind hop (hf a t ht)

theorem Completes.get {f : State → Seq β} (h : Completes s (f s) Q') :
    Completes s ((get : Seq State) >>= f) Q' := .ok_bind rfl h

theorem Completes.ite {c : Prop} [Decidable c] {y : Seq α} (hx : c → Completes s x Q)
    (hy : ¬ c → Completes s y Q) : Completes s (if c then x else y) Q := by
  split
  next h => exact hx h
  next h => exact hy h

theorem Completes.loopUp {body : Nat → Seq Unit} (I : Nat → State → Prop) {k i : Nat} (h : I i s)
    (hb : ∀ j t, i ≤ j → j < i + k → I j t → Completes t (body j) fun _ => I (j + 1)) :
    Completes s (loopUp body i k) fun _ => I (i + k) := by
  obtain ⟨u, hop, hu⟩ := loopUp_total body I k i s h fun j t h1 h2 ht => by
    obtain ⟨⟨⟩, u, hu⟩ := (hb j t h1 h2 ht).ends
    exact ⟨u, hu⟩
  exact .of_ok hop hu

theorem Completes.loopDown {body : Nat → Seq Unit} (I : Nat → State → Prop) {k : Nat} (h : I k s)
    (hb : ∀ j t, j < k → I (j + 1) t → Completes t (body j) fun _ => I j) :
    Completes s (loopDown body k) fun _ => I 0 := by
  obtain ⟨u, hop, hu⟩ := loopDown_total body I k s h fun j t h1 ht => by
    obtain ⟨⟨⟩, u, hu⟩ := (hb j t h1 ht).ends
    exact ⟨u, hu⟩
  exact .of_ok hop hu

/-- An operation that completes is an instruction that answers its end. -/
theorem Completes.perform (h : Completes s op Q) : ∃ a t, perform op s = .next t ∧ Q a t := by
  obtain ⟨a, t, hop, ht⟩ := h.ends
  exact ⟨a, t, perform_of_ok hop, ht⟩

end Rules
end Sys2Proof.Machine
end

/-! PROOFS. The family `44_block_sorter.md`, the order of the rotations (R221): `<<` is the order of a key, the
rotation as a string with its start position after it, so the library's linear orders apply. Both comparators
look for the first byte in which two rotations differ (O32). -/
section
namespace Sys2Proof.Machine

variable {s : State} {a b k : Nat}

/-! ## The key of a rotation -/

/-- `rot(a)` as a string under the lexicographic order (R221). -/
def rotString (s : State) (a : Nat) : Lex (Fin s.n.toNat → Nat) := toLex fun k => (rotByte s a k).toNat

/-- What `<<` compares: the string, then the start position (R221). -/
def rotKey (s : State) (a : Nat) : Lex (Lex (Fin s.n.toNat → Nat) × Nat) := toLex (rotString s a, a)

theorem rotString_eq_iff :
    rotString s a = rotString s b ↔ ∀ k, k < s.n.toNat → rotByte s a k = rotByte s b k := by
  refine ⟨fun h k hk => BitVec.eq_of_toNat_eq (congrFun h ⟨k, hk⟩), fun h => ?_⟩
  exact congrArg toLex (funext fun k => congrArg BitVec.toNat (h k k.isLt))

theorem rotString_lt_iff :
    rotString s a < rotString s b ↔ ∃ k, k < s.n.toNat ∧
      (∀ j, j < k → rotByte s a j = rotByte s b j) ∧ rotByte s a k < rotByte s b k := by
  constructor
  · rintro ⟨k, heq, hlt⟩
    exact ⟨k, k.isLt, fun j hj => BitVec.eq_of_toNat_eq (heq ⟨j, hj.trans k.isLt⟩ hj), hlt⟩
  · rintro ⟨k, hk, heq, hlt⟩
    exact ⟨⟨k, hk⟩, fun j hj => congrArg BitVec.toNat (heq j hj), hlt⟩

theorem rotLess_iff_string :
    rotLess s a b ↔ rotString s a < rotString s b ∨ rotString s a = rotString s b ∧ a < b := by
  rw [rotLess, rotString_lt_iff, rotString_eq_iff]

theorem rotLess_iff : rotLess s a b ↔ rotKey s a < rotKey s b :=
  rotLess_iff_string.trans
    (Prod.Lex.toLex_lt_toLex (x := (rotString s a, a)) (y := (rotString s b, b))).symm

theorem not_rotLess_iff : ¬ rotLess s a b ↔ rotKey s b ≤ rotKey s a := by rw [rotLess_iff, not_lt]

theorem rotKey_injective (s : State) : Function.Injective (rotKey s) :=
  fun _ _ h => congrArg (fun key => (ofLex key).2) h

/-! ## What the order depends on -/

/-- A rotation is a matter of N and `BLOCK[0..N)`. -/
theorem rotByte_congr {t : State} (hn : t.n = s.n)
    (hblock : ∀ i, i < s.n.toNat → arrGet (w := 8) t.block i = arrGet (w := 8) s.block i)
    (hpos : 0 < s.n.toNat) (a k : Nat) : rotByte t a k = rotByte s a k := by
  rw [rotByte, rotByte, hn, hblock _ (Nat.mod_lt _ hpos)]

theorem rotLess_congr {t : State} (hn : t.n = s.n) (hblock : t.block = s.block) (a b : Nat) :
    rotLess t a b ↔ rotLess s a b := by
  simp only [rotLess, rotByte, hn, hblock]

theorem padded_congr {t : State} (hn : t.n = s.n) (hblock : t.block = s.block) (h : padded s) :
    padded t := by
  rw [padded] at h ⊢
  rwa [hn, hblock]

/-! ## The first byte that differs -/

/-- The first `k` bytes of two rotations are equal. -/
def Agree (s : State) (a b k : Nat) : Prop := ∀ j, j < k → rotByte s a j = rotByte s b j

theorem Agree.succ (h : Agree s a b k) (hk : rotByte s a k = rotByte s b k) : Agree s a b (k + 1) := by
  intro j hj
  obtain hlt | rfl := Nat.lt_succ_iff_lt_or_eq.1 hj
  · exact h j hlt
  · exact hk

/-- A rotation is read circularly. -/
theorem rotByte_mod (s : State) (a k : Nat) : rotByte s a (k % s.n.toNat) = rotByte s a k := by
  rw [rotByte, rotByte, Nat.add_mod_mod]

/-- Rotations that agree in all their bytes agree however far they are read. -/
theorem Agree.beyond (h : Agree s a b k) (hn : s.n.toNat ≤ k) (hpos : 0 < s.n.toNat) (j : Nat) :
    rotByte s a j = rotByte s b j := by
  rw [← rotByte_mod s a, ← rotByte_mod s b]
  exact h _ ((Nat.mod_lt _ hpos).trans_le hn)

theorem Agree.rotString_lt (h : Agree s a b k) (hpos : 0 < s.n.toNat)
    (hlt : rotByte s a k < rotByte s b k) : rotString s a < rotString s b := by
  by_cases hk : k < s.n.toNat
  · exact rotString_lt_iff.2 ⟨k, hk, h, hlt⟩
  · rw [h.beyond (Nat.le_of_not_lt hk) hpos] at hlt
    exact absurd hlt (BitVec.lt_irrefl _)

/-- The first byte that differs decides. -/
theorem Agree.rotLess_iff_of_ne (h : Agree s a b k) (hpos : 0 < s.n.toNat)
    (hne : rotByte s a k ≠ rotByte s b k) : rotLess s b a ↔ rotByte s b k < rotByte s a k := by
  have hsymm : Agree s b a k := fun j hj => (h j hj).symm
  refine ⟨fun hless => ?_, fun hlt => .inl (rotString_lt_iff.1 (hsymm.rotString_lt hpos hlt))⟩
  by_contra hnlt
  have hlt : rotByte s a k < rotByte s b k :=
    BitVec.lt_of_le_ne (BitVec.not_lt.1 hnlt) hne
  have hkey : rotKey s a < rotKey s b :=
    rotLess_iff.1 (.inl (rotString_lt_iff.1 (h.rotString_lt hpos hlt)))
  exact lt_asymm hkey (rotLess_iff.1 hless)

/-- Of equal rotations the start position decides. -/
theorem Agree.rotLess_iff_of_all (h : Agree s a b k) (hn : s.n.toNat ≤ k) (hpos : 0 < s.n.toNat) :
    rotLess s b a ↔ b < a := by
  have heq : rotString s b = rotString s a := rotString_eq_iff.2 fun j _ => (h.beyond hn hpos j).symm
  rw [rotLess_iff_string, heq]
  exact (or_iff_right (lt_irrefl _)).trans (and_iff_right rfl)

/-! ## `trivial_gt` (R226) -/

theorem trivialGtFrom_iff (hpos : 0 < s.n.toNat) : ∀ (fuel k : Nat), k + fuel = s.n.toNat →
    Agree s a b k → (trivialGtFrom s.block s.n.toNat a b k fuel = true ↔ rotLess s b a)
  | 0, k, hk, h => by
    rw [trivialGtFrom, decide_eq_true_iff, h.rotLess_iff_of_all (by omega) hpos]
  | fuel + 1, k, hk, h => by
    change (if rotByte s a k ≠ rotByte s b k then decide (rotByte s b k < rotByte s a k)
      else trivialGtFrom s.block s.n.toNat a b (k + 1) fuel) = true ↔ _
    split
    next hne => rw [decide_eq_true_iff, h.rotLess_iff_of_ne hpos hne]
    next heq => exact trivialGtFrom_iff hpos fuel (k + 1) (by omega) (h.succ (not_not.1 heq))

theorem rotLess_irrefl (s : State) (a : Nat) : ¬ rotLess s a a := by
  rw [rotLess_iff]
  exact lt_irrefl _

theorem trivialGt_iff (hpos : 0 < s.n.toNat) :
    trivialGt s.block s.n.toNat a b = true ↔ rotLess s b a := by
  unfold trivialGt
  split
  next hab => simp [hab, rotLess_irrefl]
  next => exact trivialGtFrom_iff hpos _ 0 (Nat.zero_add _) nofun

/-! ## `full_gt` (R230) -/

theorem joinBytes_toNat (b3 b2 b1 b0 : Byte) :
    (joinBytes b3 b2 b1 b0).toNat = ((b3.toNat * 256 + b2.toNat) * 256 + b1.toNat) * 256 + b0.toNat := by
  have hstep : ∀ {w : Nat} (x : BitVec w) (y : Byte), (x ++ y).toNat = x.toNat * 256 + y.toNat := by
    intro w x y
    rw [BitVec.toNat_append, ← Nat.shiftLeft_add_eq_or_of_lt y.isLt, Nat.shiftLeft_eq]
  simp only [joinBytes, hstep]

/-- A byte of the block or its padding, up to fifteen beyond a start position, is one of the rotation (R224). -/
theorem arrGet_block_of_padded (hp : padded s) {i m : Nat} (hi : i < s.n.toNat) (hm : m < 16) :
    arrGet (w := 8) s.block (i + m) = rotByte s i m := by
  by_cases hlt : i + m < s.n.toNat
  · rw [rotByte, Nat.mod_eq_of_lt hlt]
  · have hpad := hp (i + m - s.n.toNat) (by simp only [wrapPad]; omega)
    rw [Nat.add_sub_of_le (Nat.le_of_not_lt hlt)] at hpad
    rw [hpad, rotByte, Nat.mod_eq_sub_mod (Nat.le_of_not_lt hlt)]

/-- The word at offset `u` of a pass: four bytes of the rotation from offset `k` on. -/
theorem packedWord_eq (hp : padded s) {i u : Nat} (hi : i < s.n.toNat) (hu : u + 4 ≤ 16)
    (ha : ∀ m, rotByte s i m = rotByte s a (k + m)) :
    packedWord s.block (i + u) = joinBytes (rotByte s a (k + u)) (rotByte s a (k + u + 1))
      (rotByte s a (k + u + 2)) (rotByte s a (k + u + 3)) := by
  have hbyte : ∀ m, m < 16 → arrGet (w := 8) s.block (i + m) = rotByte s a (k + m) := fun m hm =>
    (arrGet_block_of_padded hp hi hm).trans (ha m)
  rw [packedWord, hbyte u (by omega), Nat.add_assoc i, Nat.add_assoc i, Nat.add_assoc i,
    hbyte (u + 1) (by omega), hbyte (u + 2) (by omega), hbyte (u + 3) (by omega)]
  rfl

/-- Two words that differ first in byte `m` are ordered as those bytes are (R39). -/
theorem joinBytes_cases (x y : Nat → Byte) :
    (∀ m, m < 4 → x m = y m) ∨ ∃ m, m < 4 ∧ (∀ j, j < m → x j = y j) ∧ x m ≠ y m ∧
      joinBytes (x 0) (x 1) (x 2) (x 3) ≠ joinBytes (y 0) (y 1) (y 2) (y 3) ∧
      (joinBytes (y 0) (y 1) (y 2) (y 3) < joinBytes (x 0) (x 1) (x 2) (x 3) ↔ y m < x m) := by
  have hx := fun m => (x m).isLt
  have hy := fun m => (y m).isLt
  by_cases hall : ∀ m, m < 4 → x m = y m
  · exact .inl hall
  right
  push Not at hall
  have hfirst := Nat.find_spec hall
  have hbefore : ∀ j, j < Nat.find hall → x j = y j := fun j hj => by
    have := Nat.find_min hall hj
    push Not at this
    exact this (hj.trans hfirst.1)
  refine ⟨Nat.find hall, hfirst.1, hbefore, hfirst.2, ?_⟩
  generalize Nat.find hall = m at hfirst hbefore
  obtain ⟨hm, hne⟩ := hfirst
  have hnat : (x m).toNat ≠ (y m).toNat := fun h => hne (BitVec.eq_of_toNat_eq h)
  have heq : ∀ j, j < m → (x j).toNat = (y j).toNat := fun j hj => congrArg _ (hbefore j hj)
  rw [ne_eq, ← BitVec.toNat_inj, BitVec.lt_def, BitVec.lt_def]
  simp only [joinBytes_toNat]
  have h0 := hx 0; have h1 := hx 1; have h2 := hx 2; have h3 := hx 3
  have k0 := hy 0; have k1 := hy 1; have k2 := hy 2; have k3 := hy 3
  interval_cases m
  · omega
  · have e0 := heq 0 (by omega)
    omega
  · have e0 := heq 0 (by omega)
    have e1 := heq 1 (by omega)
    omega
  · have e0 := heq 0 (by omega)
    have e1 := heq 1 (by omega)
    have e2 := heq 2 (by omega)
    omega

/-- The words of a pass from offset `u` on: they are equal, and so are the bytes, or the first that differ decide
(R230). -/
theorem wordsGt_spec (hp : padded s) {i j : Nat} (hi : i < s.n.toNat) (hj : j < s.n.toNat)
    (ha : ∀ m, rotByte s i m = rotByte s a (k + m)) (hb : ∀ m, rotByte s j m = rotByte s b (k + m)) :
    ∀ (m u : Nat), u + 4 * m = 16 → Agree s a b (k + u) →
      (∃ g, wordsGt s.block i j (List.range' u m 4) = some g ∧ (g = true ↔ rotLess s b a)) ∨
        wordsGt s.block i j (List.range' u m 4) = none ∧ Agree s a b (k + 16)
  | 0, u, hu, h => by
    obtain rfl : u = 16 := by omega
    exact .inr ⟨rfl, h⟩
  | m + 1, u, hu, h => by
    have hx := packedWord_eq hp hi (u := u) (by omega) ha
    have hy := packedWord_eq hp hj (u := u) (by omega) hb
    rw [List.range'_succ, wordsGt, hx, hy]
    obtain heq | ⟨d, hd, hbefore, hne, hword, hlt⟩ := joinBytes_cases
      (fun m => rotByte s a (k + u + m)) (fun m => rotByte s b (k + u + m))
    · have hsame := heq 0 (by omega)
      have h1 := heq 1 (by omega)
      have h2 := heq 2 (by omega)
      have h3 := heq 3 (by omega)
      dsimp only [Nat.add_zero] at hsame h1 h2 h3
      have hagree : Agree s a b (k + (u + 4)) := ((((h.succ hsame).succ h1).succ h2).succ h3)
      simp only [hsame, h1, h2, h3, ne_eq, not_true_eq_false, if_false]
      exact wordsGt_spec hp hi hj ha hb m (u + 4) (by omega) hagree
    · have hagree : Agree s a b (k + u + d) := fun r hr => by
        by_cases hru : r < k + u
        · exact h r hru
        · have := hbefore (r - (k + u)) (by omega)
          rwa [Nat.add_sub_of_le (Nat.le_of_not_lt hru)] at this
      dsimp only [Nat.add_zero] at hword hlt
      left
      exact ⟨_, if_pos hword, by
        rw [decide_eq_true_iff, hlt, hagree.rotLess_iff_of_ne (hi.trans_le' (Nat.zero_le _)) hne]⟩

/-- A start position moved on by one pass (R230). -/
theorem rotByte_wrapped {i : Nat} (ha : ∀ m, rotByte s i m = rotByte s a (k + m)) (m : Nat) :
    rotByte s (if s.n.toNat ≤ i + 16 then i + 16 - s.n.toNat else i + 16) m =
      rotByte s a (k + 16 + m) := by
  rw [Nat.add_assoc k, ← ha (16 + m), rotByte, rotByte]
  split
  next h =>
    have hsplit : i + (16 + m) = i + 16 - s.n.toNat + m + s.n.toNat := by omega
    rw [hsplit, Nat.add_mod_right]
  next => rw [Nat.add_assoc]

theorem fullGtFrom_iff (hp : padded s) (hpos : 0 < s.n.toNat) : ∀ (fuel i j k : Nat),
    s.n.toNat ≤ k + 16 * fuel → (k < s.n.toNat → i < s.n.toNat ∧ j < s.n.toNat) →
    (∀ m, rotByte s i m = rotByte s a (k + m)) → (∀ m, rotByte s j m = rotByte s b (k + m)) →
    Agree s a b k → (fullGtFrom s.block s.n.toNat a b fuel i j k = true ↔ rotLess s b a)
  | 0, i, j, k, hfuel, _, _, _, h => by
    rw [fullGtFrom, decide_eq_true_iff, h.rotLess_iff_of_all (by omega) hpos]
  | fuel + 1, i, j, k, hfuel, hij, ha, hb, h => by
    unfold fullGtFrom
    split
    next hk =>
      obtain ⟨hi, hj⟩ := hij hk
      have hoffsets : ([0, 4, 8, 12] : List Nat) = List.range' 0 4 4 := rfl
      rw [hoffsets]
      obtain ⟨g, hg, hless⟩ | ⟨hnone, hagree⟩ := wordsGt_spec hp hi hj ha hb 4 0 rfl h
      · rw [hg]
        exact hless
      · rw [hnone]
        refine fullGtFrom_iff hp hpos fuel _ _ _ (by omega) (fun hlt => ?_) (rotByte_wrapped ha)
          (rotByte_wrapped hb) hagree
        constructor <;> split <;> omega
    next hk => rw [decide_eq_true_iff, h.rotLess_iff_of_all (by omega) hpos]

theorem fullGt_iff (hp : padded s) (ha : a < s.n.toNat) (hb : b < s.n.toNat) :
    fullGt s.block s.n.toNat a b = true ↔ rotLess s b a := by
  have hpos : 0 < s.n.toNat := by omega
  unfold fullGt
  split
  next hab => simp [hab, rotLess_irrefl]
  next =>
    exact fullGtFrom_iff hp hpos _ a b 0 (by omega) (fun _ => ⟨ha, hb⟩) (fun m => by rw [Nat.zero_add])
      (fun m => by rw [Nat.zero_add]) nofun

/-! ## The comparators as operations (R226, R230) -/

theorem trivialGtOp_apply (a b : Word) (hn : s.n.toNat ≤ blockSize s) :
    trivialGtOp a b s = .ok (trivialGt s.block s.n.toNat a.toNat b.toNat) s := by
  simp only [trivialGtOp, seq_bind, seq_get, checkIndex_of_lt (Nat.lt_succ_of_le hn), seq_pure]

theorem fullGtOp_apply {a b : Word} (hn : s.n.toNat ≤ capMax s.par) (ha : a.toNat < s.n.toNat)
    (hb : b.toNat < s.n.toNat) : fullGtOp a b s = .ok (rotGt s a b) s := by
  simp only [fullGtOp, seq_bind, seq_get, checkIndex_of_lt (Nat.lt_succ_of_le hn), checkIndex_of_lt ha,
    checkIndex_of_lt hb, seq_pure, rotGt]

/-- `full_gt` decides the order of the keys (R230). -/
theorem rotGt_iff (hp : padded s) {a b : Word} (ha : a.toNat < s.n.toNat) (hb : b.toNat < s.n.toNat) :
    rotGt s a b = true ↔ rotKey s b.toNat < rotKey s a.toNat :=
  (fullGt_iff hp ha hb).trans rotLess_iff

theorem boolWord_eq (g : Bool) : boolWord g = [if g then 1#32 else 0#32] := by cases g <;> rfl

theorem exec_bwtTrivialGt (a b : Word) (s : State) :
    exec (.bwtTrivialGt a b) s = performValue boolWord (trivialGtOp a b) s := rfl

theorem exec_bwtFullGt (a b : Word) (s : State) :
    exec (.bwtFullGt a b) s = performValue boolWord (fullGtOp a b) s := rfl

/-- Settles O32: each comparator finds the first byte that differs, or that none does. -/
theorem comparatorsDecideRotationOrder : Obligations.ComparatorsDecideRotationOrder := by
  intro s a b ha hb
  refine ⟨fun hn => ⟨_, ?_, trivialGt_iff (by omega)⟩, fun hn hp => ⟨_, ?_, fullGt_iff hp ha hb⟩⟩
  · rw [exec_bwtTrivialGt, performValue_of_ok (trivialGtOp_apply a b hn), boolWord_eq]
  · rw [exec_bwtFullGt, performValue_of_ok (fullGtOp_apply hn ha hb), boolWord_eq, rotGt]

end Sys2Proof.Machine
end

/-! PROOFS. The family `44_block_sorter.md`, what sorting a range does to ZPTR: the sorter's loops permute the
places of a range and leave the others alone. -/
section
namespace Sys2Proof.Machine

/-! ## Places permuted -/

/-- `g` is `f` with the places of `[lo, hi)` permuted. -/
def Rearranged (lo hi : Nat) (f g : Nat → Nat) : Prop :=
  ∃ σ : Equiv.Perm Nat, (∀ k, k < lo ∨ hi ≤ k → σ k = k) ∧ ∀ k, g k = f (σ k)

namespace Rearranged

variable {lo hi : Nat} {f g e : Nat → Nat}

theorem refl (lo hi : Nat) (f : Nat → Nat) : Rearranged lo hi f f := ⟨1, fun _ _ => rfl, fun _ => rfl⟩

theorem trans (h : Rearranged lo hi f g) (h' : Rearranged lo hi g e) : Rearranged lo hi f e := by
  obtain ⟨σ, hσ, hg⟩ := h
  obtain ⟨τ, hτ, he⟩ := h'
  exact ⟨σ * τ, fun k hk => by rw [Equiv.Perm.mul_apply, hτ k hk, hσ k hk], fun k => (he k).trans (hg _)⟩

theorem mono {lo' hi' : Nat} (h : Rearranged lo hi f g) (hlo : lo' ≤ lo) (hhi : hi ≤ hi') :
    Rearranged lo' hi' f g := by
  obtain ⟨σ, hσ, hg⟩ := h
  exact ⟨σ, fun k hk => hσ k (by omega), hg⟩

theorem comp_swap {i j : Nat} (hi1 : lo ≤ i) (hi2 : i < hi) (hj1 : lo ≤ j) (hj2 : j < hi)
    (f : Nat → Nat) : Rearranged lo hi f (f ∘ Equiv.swap i j) :=
  ⟨Equiv.swap i j, fun _ _ => Equiv.swap_apply_of_ne_of_ne (by omega) (by omega), fun _ => rfl⟩

theorem outside (h : Rearranged lo hi f g) {k : Nat} (hk : k < lo ∨ hi ≤ k) : g k = f k := by
  obtain ⟨σ, hσ, hg⟩ := h
  rw [hg, hσ k hk]

/-- What holds of every element of the range holds of them rearranged. -/
theorem forall_mem (h : Rearranged lo hi f g) {P : Nat → Prop} (hP : ∀ k, lo ≤ k → k < hi → P (f k)) :
    ∀ k, lo ≤ k → k < hi → P (g k) := by
  obtain ⟨σ, hσ, hg⟩ := h
  intro k hk1 hk2
  have hin : ¬ (σ k < lo ∨ hi ≤ σ k) := fun hout => by
    have := σ.injective (hσ _ hout)
    omega
  rw [hg]
  exact hP _ (by omega) (by omega)

/-- The elements of the range are those before, in another order. -/
theorem slice_perm (h : Rearranged lo hi f g) :
    ((List.range (hi - lo)).map fun k => g (lo + k)).Perm
      ((List.range (hi - lo)).map fun k => f (lo + k)) := by
  obtain ⟨σ, hσ, hg⟩ := h
  have hplaces : ((List.range (hi - lo)).map fun k => σ (lo + k)).Perm
      ((List.range (hi - lo)).map fun k => lo + k) := by
    have hnodup : ∀ e : Nat → Nat, Function.Injective e → ((List.range (hi - lo)).map e).Nodup :=
      fun e he => List.nodup_range.map he
    have hinj : Function.Injective fun k => lo + k := fun a b hab => Nat.add_left_cancel hab
    refine List.Subperm.perm_of_length_le (List.subperm_of_subset (hnodup _ (σ.injective.comp hinj)) ?_)
      (by simp)
    intro m hm
    obtain ⟨k, hk, rfl⟩ := List.mem_map.1 hm
    rw [List.mem_range] at hk
    have hin : ¬ (σ (lo + k) < lo ∨ hi ≤ σ (lo + k)) := fun hout => by
      have := σ.injective (hσ _ hout)
      omega
    exact List.mem_map.2 ⟨σ (lo + k) - lo, List.mem_range.2 (by omega), by omega⟩
  have hmap := hplaces.map f
  simp only [List.map_map] at hmap
  exact (List.map_congr_left fun k _ => hg (lo + k)).symm ▸ hmap

end Rearranged

/-! ## One element of ZPTR written -/

/-- The state after `ZPTR[j] <- v`. -/
def zptrPut (t : State) (j : Nat) (v : Word) : State := { t with zptr := arrSet t.zptr j v }

variable {s t u : State} {lo hi : Nat}

theorem writeZptr_apply {j : Nat} (hj : j < capMax t.par) (v : Word) :
    writeZptr j v t = .ok () (zptrPut t j v) := writeZptr_of_lt hj

theorem zptrAt_zptrPut (hwf : arrWf t.zptr = true) (j : Nat) (v : Word) :
    zptrAt (zptrPut t j v) = Function.update (zptrAt t) j v.toNat := by
  funext k
  by_cases hk : k = j
  · subst hk
    rw [Function.update_self]
    exact congrArg BitVec.toNat (arrGet_arrSet_same _ _ _ hwf)
  · rw [Function.update_of_ne hk]
    exact congrArg BitVec.toNat (arrGet_arrSet_other _ _ _ _ hk hwf)

/-- Moving an element into a hole and the hole to its place is an exchange of the two places. -/
theorem update_update_eq_swap {f : Nat → Nat} {i j : Nat} (h : i ≠ j) (v : Nat) :
    Function.update (Function.update f j (f i)) i v = Function.update f j v ∘ Equiv.swap i j := by
  funext k
  simp only [Function.update_apply, Function.comp_apply, Equiv.swap_apply_def]
  split_ifs <;> simp_all

/-! ## A range of ZPTR rearranged -/

/-- Two operations that write nothing but ZPTR, one after the other. -/
theorem zptr_frame_trans (h : t = { s with zptr := t.zptr }) (h' : u = { t with zptr := u.zptr }) :
    u = { s with zptr := u.zptr } := h'.trans (congrArg (fun v => { v with zptr := u.zptr }) h)

/-- `t` is `s` with the elements `ZPTR[lo..hi)` in another order, and nothing else changed. -/
structure Rearranges (lo hi : Nat) (s t : State) : Prop where
  frame : t = { s with zptr := t.zptr }
  wf : arrWf t.zptr = true
  moved : Rearranged lo hi (zptrAt s) (zptrAt t)

namespace Rearranges

theorem refl (hwf : arrWf s.zptr = true) : Rearranges lo hi s s := ⟨rfl, hwf, .refl ..⟩

theorem trans (h : Rearranges lo hi s t) (h' : Rearranges lo hi t u) : Rearranges lo hi s u :=
  ⟨zptr_frame_trans h.frame h'.frame, h'.wf, h.moved.trans h'.moved⟩

theorem mono {lo' hi' : Nat} (h : Rearranges lo hi s t) (hlo : lo' ≤ lo) (hhi : hi ≤ hi') :
    Rearranges lo' hi' s t := ⟨h.frame, h.wf, h.moved.mono hlo hhi⟩

theorem outside (h : Rearranges lo hi s t) {k : Nat} (hk : k < lo ∨ hi ≤ k) : zptrAt t k = zptrAt s k :=
  h.moved.outside hk

theorem slice_perm (h : Rearranges lo hi s t) : (zptrSlice t lo hi).Perm (zptrSlice s lo hi) :=
  h.moved.slice_perm

theorem n_eq (h : Rearranges lo hi s t) : t.n = s.n := by rw [h.frame]

theorem par_eq (h : Rearranges lo hi s t) : t.par = s.par := by rw [h.frame]

theorem block_eq (h : Rearranges lo hi s t) : t.block = s.block := by rw [h.frame]

theorem startsBelow {lo' hi' : Nat} (h : Rearranges lo hi s t) (hlo : lo' ≤ lo) (hhi : hi ≤ hi')
    (hs : startsBelow s lo' hi') : startsBelow t lo' hi' := by
  rw [Machine.startsBelow, h.n_eq]
  exact (h.moved.mono hlo hhi).forall_mem (P := (· < s.n.toNat)) hs

theorem rotLess_iff (h : Rearranges lo hi s t) (a b : Nat) : rotLess t a b ↔ rotLess s a b :=
  rotLess_congr h.n_eq h.block_eq a b

end Rearranges

/-- What sorting `ZPTR[lo..hi)` with `full_gt` rests on. -/
structure SortReady (lo hi : Nat) (s : State) : Prop where
  padded : padded s
  n_le : s.n.toNat ≤ capMax s.par
  hi_le : hi ≤ capMax s.par
  wf : arrWf s.zptr = true
  starts : startsBelow s lo hi

theorem SortReady.mono {lo' hi' : Nat} (h : SortReady lo hi s) (hlo : lo ≤ lo') (hhi : hi' ≤ hi) :
    SortReady lo' hi' s :=
  ⟨h.padded, h.n_le, hhi.trans h.hi_le, h.wf,
    fun k hk1 hk2 => h.starts k (hlo.trans hk1) (hk2.trans_le hhi)⟩

theorem SortReady.rearranged {lo' hi' : Nat} (h : SortReady lo hi s) (hr : Rearranges lo' hi' s t)
    (hlo : lo ≤ lo') (hhi : hi' ≤ hi) : SortReady lo hi t where
  padded := padded_congr hr.n_eq hr.block_eq h.padded
  n_le := by rw [hr.n_eq, hr.par_eq]; exact h.n_le
  hi_le := by rw [hr.par_eq]; exact h.hi_le
  wf := hr.wf
  starts := hr.startsBelow hlo hhi h.starts

theorem SortReady.readZptr (h : SortReady lo hi s) {k : Nat} (hk : k < hi) :
    readZptr k s = .ok (arrGet s.zptr k) s := readZptr_of_lt (hk.trans_le h.hi_le)

/-! ## A range in order -/

/-- `ZPTR[lo..hi)` of `t` does not descend under the order of `s`. -/
def Ordered (s : State) (lo hi : Nat) (t : State) : Prop :=
  ∀ j k, lo ≤ j → j < k → k < hi → rotKey s (zptrAt t j) ≤ rotKey s (zptrAt t k)

theorem zptrSlice_ne_of_nodup (h : (zptrSlice t lo hi).Nodup) {j k : Nat} (hj : lo ≤ j) (hjk : j < k)
    (hk : k < hi) : zptrAt t j ≠ zptrAt t k := by
  intro heq
  have hinj := (List.nodup_map_iff_inj_on List.nodup_range).1 h (j - lo) (List.mem_range.2 (by omega))
    (k - lo) (List.mem_range.2 (by omega))
  rw [Nat.add_sub_of_le hj, Nat.add_sub_of_le (by omega)] at hinj
  have := hinj heq
  omega

/-- Distinct elements in order ascend (R221). -/
theorem Ordered.ascends (h : Ordered s lo hi t) (hr : ∀ a b, rotLess t a b ↔ rotLess s a b)
    (hnodup : (zptrSlice t lo hi).Nodup) : ascends t lo hi := by
  intro j k hj hjk hk
  rw [hr, rotLess_iff]
  exact (h j k hj hjk hk).lt_of_ne fun heq =>
    zptrSlice_ne_of_nodup hnodup hj hjk hk (rotKey_injective s heq)

end Sys2Proof.Machine
end

/-! PROOFS. The family `44_block_sorter.md`, the inner loop that Shell sort (R225) and `insertion` (R234) share: a
value sinks by steps of `h`, the place it leaves is a hole, and with the value put into the hole the elements are
those before. -/
section
namespace Sys2Proof.Machine

/-! ## Chains with one link broken -/

section Chains

variable {K : Type} [LinearOrder K] {f : Nat → K} {lo h i j : Nat}

/-- Places of `[lo, i)` that are `h` apart are in order. -/
def Chained (lo h i : Nat) (f : Nat → K) : Prop := ∀ m, lo + h ≤ m → m < i → f (m - h) ≤ f m

/-- Places up to `i` that are `h` apart are in order but for the link that ends at `j`; its neighbours are. -/
structure Sinking (lo h i j : Nat) (f : Nat → K) : Prop where
  links : ∀ m, lo + h ≤ m → m ≤ i → m ≠ j → f (m - h) ≤ f m
  around : lo + h ≤ j → j + h ≤ i → f (j - h) ≤ f (j + h)

theorem Chained.sinking (hc : Chained lo h i f) (hpos : 0 < h) : Sinking lo h i i f where
  links := fun m h1 h2 h3 => hc m h1 (by omega)
  around := fun _ _ => by omega

/-- The two places of the broken link exchanged: the link before it is the broken one. -/
theorem Sinking.step (hs : Sinking lo h i j f) (hpos : 0 < h) (hj : lo + h ≤ j) (hji : j ≤ i)
    (hlt : f j < f (j - h)) : Sinking lo h i (j - h) (f ∘ Equiv.swap (j - h) j) := by
  have hother : ∀ {m}, m ≠ j - h → m ≠ j → Equiv.swap (j - h) j m = m :=
    Equiv.swap_apply_of_ne_of_ne
  refine ⟨fun m h1 h2 h3 => ?_, fun h1 _ => ?_⟩
  · by_cases hmj : m = j
    · subst hmj
      simpa using hlt.le
    by_cases hnext : m = j + h
    · subst hnext
      have haround := hs.around hj h2
      simpa [hother h3 hmj] using haround
    · simpa [hother h3 hmj, hother (m := m - h) (by omega) (by omega)] using hs.links m h1 h2 hmj
  · have hlink := hs.links (j - h) h1 (by omega) (by omega)
    have hback : j - h + h = j := by omega
    simpa [hback, hother (m := j - h - h) (by omega) (by omega)] using hlink

/-- A link that is in order, or where the chain begins, closes the chain. -/
theorem Sinking.chained (hs : Sinking lo h i j f) (hstop : j < lo + h ∨ f (j - h) ≤ f j) :
    Chained lo h (i + 1) f := by
  intro m h1 h2
  by_cases hmj : m = j
  · subst hmj
    exact hstop.resolve_left (by omega)
  · exact hs.links m h1 (by omega) hmj

/-- A chain of neighbours is in order. -/
theorem Chained.le_of_lt {hi : Nat} (hc : Chained lo 1 hi f) {j : Nat} (hj : lo ≤ j) :
    ∀ k, j < k → k < hi → f j ≤ f k := by
  intro k hjk
  induction k, hjk using Nat.le_induction with
  | base => exact fun hk => hc (j + 1) (by omega) hk
  | succ k hjk ih => exact fun hk => (ih (by omega)).trans (hc (k + 1) (by omega) hk)

end Chains

/-! ## A value sinks -/

variable {s t : State} {lo hi h i j : Nat} {v : Word}

/-- The state while `v` sinks from place `i` and has left a hole at `j`: with `v` in the hole, `ZPTR[lo..hi)` of
`s` is rearranged. -/
structure HoleAt (s : State) (lo hi h i j : Nat) (v : Word) (t : State) : Prop where
  frame : t = { s with zptr := t.zptr }
  wf : arrWf t.zptr = true
  moved : Rearranged lo hi (zptrAt s) (zptrAt (zptrPut t j v))
  sinking : Sinking lo h i j fun k => rotKey s (zptrAt (zptrPut t j v) k)

/-- The range rearranged so far, the places below `i` in chains. -/
def PassTo (s : State) (lo hi h i : Nat) (t : State) : Prop :=
  Rearranges lo hi s t ∧ Chained lo h i fun k => rotKey s (zptrAt t k)

namespace HoleAt

theorem start (hp : PassTo s lo hi h i t) (hpos : 0 < h) : HoleAt s lo hi h i i (arrGet t.zptr i) t := by
  obtain ⟨hr, hc⟩ := hp
  have hsame : zptrAt (zptrPut t i (arrGet t.zptr i)) = zptrAt t := by
    rw [zptrAt_zptrPut hr.wf]
    exact Function.update_eq_self i (zptrAt t)
  refine ⟨hr.frame, hr.wf, ?_, ?_⟩ <;> rw [hsame]
  · exact hr.moved
  · exact hc.sinking hpos

theorem n_eq (hh : HoleAt s lo hi h i j v t) : t.n = s.n := by rw [hh.frame]

theorem par_eq (hh : HoleAt s lo hi h i j v t) : t.par = s.par := by rw [hh.frame]

theorem block_eq (hh : HoleAt s lo hi h i j v t) : t.block = s.block := by rw [hh.frame]

theorem rotLess_iff (hh : HoleAt s lo hi h i j v t) (a b : Nat) :
    rotLess t a b ↔ rotKey s a < rotKey s b :=
  (rotLess_congr hh.n_eq hh.block_eq a b).trans Machine.rotLess_iff

/-- The value that sinks is one of the range. -/
theorem value_lt (hh : HoleAt s lo hi h i j v t) (hs : startsBelow s lo hi) (hlo : lo ≤ j) (hhi : j < hi) :
    v.toNat < s.n.toNat := by
  have hv := hh.moved.forall_mem (P := (· < s.n.toNat)) hs j hlo hhi
  rwa [zptrAt_zptrPut hh.wf, Function.update_self] at hv

/-- So is the element the value is compared with. -/
theorem above_lt (hh : HoleAt s lo hi h i j v t) (hs : startsBelow s lo hi) {k : Nat} (hk : k ≠ j)
    (hlo : lo ≤ k) (hhi : k < hi) : (arrGet t.zptr k).toNat < s.n.toNat := by
  have hz := hh.moved.forall_mem (P := (· < s.n.toNat)) hs k hlo hhi
  rwa [zptrAt_zptrPut hh.wf, Function.update_of_ne hk] at hz

/-- The element before the hole sorts after the value: it moves into the hole. -/
theorem step (hh : HoleAt s lo hi h i j v t) (hpos : 0 < h) (hj : lo + h ≤ j) (hji : j ≤ i) (hi' : i < hi)
    (hgt : rotKey s v.toNat < rotKey s (zptrAt t (j - h))) :
    HoleAt s lo hi h i (j - h) v (zptrPut t j (arrGet t.zptr (j - h))) := by
  have hne : j - h ≠ j := by omega
  have hwf : arrWf (zptrPut t j (arrGet t.zptr (j - h))).zptr = true := arrWf_arrSet hh.wf _ _
  have hswap : zptrAt (zptrPut (zptrPut t j (arrGet t.zptr (j - h))) (j - h) v) =
      zptrAt (zptrPut t j v) ∘ Equiv.swap (j - h) j := by
    rw [zptrAt_zptrPut hwf, zptrAt_zptrPut hh.wf, zptrAt_zptrPut hh.wf, ← update_update_eq_swap hne]
    rfl
  have hlt : rotKey s (zptrAt (zptrPut t j v) j) < rotKey s (zptrAt (zptrPut t j v) (j - h)) := by
    rw [zptrAt_zptrPut hh.wf, Function.update_self, Function.update_of_ne hne]
    exact hgt
  refine ⟨?_, hwf, ?_, ?_⟩
  · exact (congrArg (zptrPut · j (arrGet t.zptr (j - h))) hh.frame :)
  · rw [hswap]
    exact hh.moved.trans (.comp_swap (by omega) (by omega) (by omega) (by omega) _)
  · rw [hswap]
    exact hh.sinking.step hpos hj hji hlt

/-- The value put into the hole where it stops. -/
theorem fill (hh : HoleAt s lo hi h i j v t) (hpos : 0 < h)
    (hstop : j < lo + h ∨ rotKey s (zptrAt t (j - h)) ≤ rotKey s v.toNat) :
    PassTo s lo hi h (i + 1) (zptrPut t j v) := by
  refine ⟨⟨congrArg (zptrPut · j v) hh.frame, arrWf_arrSet hh.wf _ _, hh.moved⟩, hh.sinking.chained ?_⟩
  by_cases hj : j < lo + h
  · exact .inl hj
  · refine .inr ?_
    rw [zptrAt_zptrPut hh.wf, Function.update_self, Function.update_of_ne (by omega)]
    exact hstop.resolve_left hj

end HoleAt

/-- A chain of neighbours over the whole range is the range in order. -/
theorem PassTo.ordered (hp : PassTo s lo hi 1 hi t) : Ordered s lo hi t :=
  fun _ k hj hjk hk => hp.2.le_of_lt hj k hjk hk

/-! ## `insertion` (R234) -/

theorem insertSink_completes (hs : SortReady lo hi s) (hi' : i < hi) : ∀ (j : Nat) {t : State},
    HoleAt s lo hi 1 i j v t → lo ≤ j → j ≤ i →
    Completes t (insertSink lo v j) fun r u => HoleAt s lo hi 1 i r v u ∧ r ≤ i ∧
      (r < lo + 1 ∨ rotKey s (zptrAt u (r - 1)) ≤ rotKey s v.toNat)
  | 0, t, hh, _, _ => .pure ⟨hh, Nat.zero_le _, .inl (Nat.succ_pos _)⟩
  | j + 1, t, hh, hlo, hji => by
    have hpar := hh.par_eq
    have hcap := hs.hi_le
    refine .ite (fun hlt => ?_) fun hge => .pure ⟨hh, hji, .inl (by omega)⟩
    have hz := hh.above_lt hs.starts (k := j) (by omega) (by omega) (by omega)
    have hv := hh.value_lt hs.starts hlo (by omega)
    have hpad : padded t := padded_congr hh.n_eq hh.block_eq hs.padded
    rw [← hh.n_eq] at hz hv
    have hn : t.n.toNat ≤ capMax t.par := by
      rw [hh.n_eq, hpar]
      exact hs.n_le
    have hgt : rotGt t (arrGet t.zptr j) v = true ↔ rotKey s v.toNat < rotKey s (zptrAt t j) :=
      (fullGt_iff hpad hz hv).trans (hh.rotLess_iff _ _)
    refine .ok_bind (readZptr_of_lt (by rw [hpar]; omega)) (.ok_bind (fullGtOp_apply hn hz hv) ?_)
    refine .ite (fun htrue => ?_) fun hfalse => .pure ⟨hh, hji, .inr (not_lt.1 (mt hgt.2 hfalse))⟩
    refine .ok_bind (writeZptr_apply (by rw [hpar]; omega) _) ?_
    exact insertSink_completes hs hi' j
      (hh.step Nat.one_pos (by omega) hji hi' (hgt.1 htrue)) (by omega) (by omega)

theorem insertStep_completes (hs : SortReady lo hi s) (hlo : lo ≤ i) (hi' : i < hi)
    (hp : PassTo s lo hi 1 i t) :
    Completes t (insertStep lo i) fun _ => PassTo s lo hi 1 (i + 1) := by
  have hcap := hs.hi_le
  refine .ok_bind (readZptr_of_lt (by rw [hp.1.par_eq]; omega)) ?_
  refine .bind (insertSink_completes hs hi' i (.start hp Nat.one_pos) hlo le_rfl) ?_
  rintro r u ⟨hh, hri, hstop⟩
  exact .of_ok (writeZptr_apply (by rw [hh.par_eq]; omega) _) (hh.fill Nat.one_pos hstop)

/-- `insertion` puts its range in order (R234). -/
theorem insertionOp_completes {lo hi : Word} (hs : SortReady lo.toNat (hi.toNat + 1) s)
    (hle : lo.toNat ≤ hi.toNat) :
    Completes s (insertionOp lo hi) fun _ t =>
      Rearranges lo.toNat (hi.toNat + 1) s t ∧ Ordered s lo.toNat (hi.toNat + 1) t := by
  have hlen : lo.toNat + 1 + (hi.toNat - lo.toNat) = hi.toNat + 1 := by omega
  refine .mono (.loopUp (PassTo s lo.toNat (hi.toNat + 1) 1)
    ⟨.refl hs.wf, fun m h1 h2 => by omega⟩ fun i t h1 h2 ht => ?_) fun _ t ht => ?_
  · exact insertStep_completes hs (by omega) (by omega) ht
  · rw [hlen] at ht
    exact ⟨ht.1, ht.ordered⟩

theorem exec_bwtInsertion (lo hi : Word) (s : State) :
    exec (.bwtInsertion lo hi) s = perform (insertionOp lo hi) s := rfl

/-- A range rearranged in order, its elements distinct, meets the contract of a sorted range. -/
theorem Rearranges.sorted (hr : Rearranges lo hi s t) (ho : Ordered s lo hi t)
    (hnodup : (zptrSlice s lo hi).Nodup) :
    ascends t lo hi ∧ (zptrSlice t lo hi).Perm (zptrSlice s lo hi) :=
  ⟨ho.ascends hr.rotLess_iff (hr.slice_perm.nodup_iff.2 hnodup), hr.slice_perm⟩

/-- Settles O37: each element sinks to its place among those before it. -/
theorem insertionSortsARange : Obligations.InsertionSortsARange := by
  intro s lo hi _ ha hp hn hle hhi hstarts hnodup
  have hs : SortReady lo.toNat (hi.toNat + 1) s := ⟨hp, hn, hhi, ha.2.1, hstarts⟩
  obtain ⟨⟨⟩, t, hop, hr, ho⟩ := (insertionOp_completes hs hle).perform
  obtain ⟨hasc, hperm⟩ := hr.sorted ho hnodup
  exact ⟨t, (exec_bwtInsertion lo hi s).trans hop, hr.frame, hasc, hperm, fun k hk => hr.outside (by omega)⟩

/-! ## `bwt.small_sort` (R225) -/

theorem shellSink_completes (hn : s.n.toNat ≤ capMax s.par) (hpos : 0 < h) (hi' : i < s.n.toNat) :
    ∀ (fuel j : Nat) {t : State}, HoleAt s 0 s.n.toNat h i j v t → j < fuel → j ≤ i →
    Completes t (shellSink h v fuel j) fun r u => HoleAt s 0 s.n.toNat h i r v u ∧ r ≤ i ∧
      (r < 0 + h ∨ rotKey s (zptrAt u (r - h)) ≤ rotKey s v.toNat)
  | 0, j, t, hh, hfuel, _ => absurd hfuel (Nat.not_lt_zero _)
  | fuel + 1, j, t, hh, hfuel, hji => by
    have hpar := hh.par_eq
    have hsize : t.n.toNat ≤ blockSize t := by
      rw [blockSize, hh.n_eq, hpar]
      omega
    have hgt : trivialGt t.block t.n.toNat (arrGet t.zptr (j - h)).toNat v.toNat = true ↔
        rotKey s v.toNat < rotKey s (zptrAt t (j - h)) :=
      (trivialGt_iff (by rw [hh.n_eq]; omega)).trans (hh.rotLess_iff _ _)
    refine .ite (fun hle => ?_) fun hlt => .pure ⟨hh, hji, .inl (by omega)⟩
    refine .ok_bind (readZptr_of_lt (by rw [hpar]; omega)) (.ok_bind (trivialGtOp_apply _ _ hsize) ?_)
    refine .ite (fun htrue => ?_) fun hfalse => .pure ⟨hh, hji, .inr (not_lt.1 (mt hgt.2 hfalse))⟩
    refine .ok_bind (writeZptr_apply (by rw [hpar]; omega) _) ?_
    exact shellSink_completes hn hpos hi' fuel (j - h)
      (hh.step hpos (by omega) hji hi' (hgt.1 htrue)) (by omega) (by omega)

theorem shellStep_completes (hn : s.n.toNat ≤ capMax s.par) (hpos : 0 < h) (hi' : i < s.n.toNat)
    (hp : PassTo s 0 s.n.toNat h i t) :
    Completes t (shellStep h i) fun _ => PassTo s 0 s.n.toNat h (i + 1) := by
  refine .ok_bind (readZptr_of_lt (by rw [hp.1.par_eq]; omega)) ?_
  refine .bind (shellSink_completes hn hpos hi' (i + 1) i (.start hp hpos) (Nat.lt_succ_self i) le_rfl) ?_
  rintro r u ⟨hh, hri, hstop⟩
  exact .of_ok (writeZptr_apply (by rw [hh.par_eq]; omega) _) (hh.fill hpos hstop)

/-- A pass of one increment chains the places that are `h` apart. -/
theorem shellPass_completes (hn : s.n.toNat ≤ capMax s.par) (hwf : arrWf s.zptr = true) (hpos : 0 < h)
    (hlt : h < s.n.toNat) :
    Completes s (loopUp (shellStep h) h (s.n.toNat - h)) fun _ => PassTo s 0 s.n.toNat h s.n.toNat := by
  have hlen : h + (s.n.toNat - h) = s.n.toNat := by omega
  refine .mono (.loopUp (PassTo s 0 s.n.toNat h) ⟨.refl hwf, fun m h1 h2 => by omega⟩
    fun i t h1 h2 ht => shellStep_completes hn hpos (by omega) ht) fun _ t ht => ?_
  rwa [hlen] at ht

/-- Whatever the passes before did, the last one, of increment 1, puts the range in order (R225). -/
theorem shellPasses_completes : ∀ (increments : List Nat) {s : State}, s.n.toNat ≤ capMax s.par →
    arrWf s.zptr = true → (∀ h ∈ increments, 0 < h) → increments.getLast? = some 1 →
    Completes s (shellPasses s.n.toNat increments) fun _ t =>
      Rearranges 0 s.n.toNat s t ∧ Ordered s 0 s.n.toNat t
  | [], _, _, _, _, hlast => nomatch hlast
  | [h], s, hn, hwf, _, hlast => by
    obtain rfl : h = 1 := by simpa using hlast
    refine .ite (fun hlt => .bind (shellPass_completes hn hwf Nat.one_pos hlt) fun _ t ht => ?_)
      fun hge => ?_
    · exact .pure ⟨ht.1, ht.ordered⟩
    · exact .pure ⟨.refl hwf, fun j k _ _ _ => by omega⟩
  | h :: h' :: rest, s, hn, hwf, hpos, hlast => by
    obtain ⟨h1, hrest⟩ := List.forall_mem_cons.1 hpos
    have hnext : ∀ t, Rearranges 0 s.n.toNat s t → Completes t (shellPasses s.n.toNat (h' :: rest))
        fun _ u => Rearranges 0 s.n.toNat s u ∧ Ordered s 0 s.n.toNat u := fun t ht => by
      have hrec := shellPasses_completes (h' :: rest) (s := t) (by rw [ht.n_eq, ht.par_eq]; exact hn)
        ht.wf hrest (by simpa using hlast)
      rw [ht.n_eq] at hrec
      refine .mono hrec fun _ u ⟨hu, ho⟩ => ⟨ht.trans hu, fun j k h1 h2 h3 => ?_⟩
      have hle := ho j k h1 h2 h3
      rwa [← not_rotLess_iff, ht.rotLess_iff, not_rotLess_iff] at hle
    rw [shellPasses]
    exact .ite (fun hlt => .bind (shellPass_completes hn hwf h1 hlt) fun _ t ht => hnext t ht.1)
      fun _ => hnext s (.refl hwf)

/-- ZPTR as the first loop of R225 leaves it. -/
theorem identityLoop_completes (hn : s.n.toNat ≤ capMax s.par) (hwf : arrWf s.zptr = true) :
    Completes s (loopUp (fun i => writeZptr i (BitVec.ofNat 32 i)) 0 s.n.toNat) fun _ t =>
      t = { s with zptr := t.zptr } ∧ arrWf t.zptr = true ∧
        ∀ k, zptrAt t k = if k < s.n.toNat then k else zptrAt s k := by
  refine .mono (.loopUp (fun i t => t = { s with zptr := t.zptr } ∧ arrWf t.zptr = true ∧
      ∀ k, zptrAt t k = if k < i then k else zptrAt s k) ⟨rfl, hwf, fun _ => rfl⟩ ?_) fun _ t ht => ?_
  · rintro i t - hi ⟨hframe, hwt, hat⟩
    have hpar : t.par = s.par := by rw [hframe]
    refine .of_ok (writeZptr_apply (by rw [hpar]; omega) _)
      ⟨congrArg (zptrPut · i _) hframe, arrWf_arrSet hwt _ _, fun k => ?_⟩
    have hval : (BitVec.ofNat 32 i).toNat = i := Nat.mod_eq_of_lt (by have := s.n.isLt; omega)
    rw [zptrAt_zptrPut hwt, Function.update_apply, hval, hat]
    split_ifs <;> omega
  · rwa [Nat.zero_add] at ht

/-- `bwt.small_sort` meets the contract and changes ZPTR[0..N) alone (R225, R221). -/
theorem smallSortOp_completes (hn : s.n.toNat ≤ capMax s.par) (hwf : arrWf s.zptr = true) :
    Completes s smallSortOp fun _ t => t = { s with zptr := t.zptr } ∧ arrWf t.zptr = true ∧
      sortedBlock t ∧ ∀ k, s.n.toNat ≤ k → zptrAt t k = zptrAt s k := by
  refine .get (.bind (identityLoop_completes hn hwf) ?_)
  rintro _ t ⟨hframe, hwt, hat⟩
  have hnt : t.n = s.n := by rw [hframe]
  have hpar : t.par = s.par := by rw [hframe]
  have hslice : zptrSlice t 0 s.n.toNat = List.range s.n.toNat := by
    rw [zptrSlice, Nat.sub_zero]
    refine (List.map_congr_left fun k hk => ?_).trans (List.map_id _)
    rw [Nat.zero_add, hat, if_pos (List.mem_range.1 hk), id]
  have hpasses := shellPasses_completes shellIncrements (s := t) (by rw [hnt, hpar]; exact hn) hwt
    (by decide) rfl
  rw [hnt] at hpasses
  refine .mono hpasses ?_
  rintro _ u ⟨hr, ho⟩
  obtain ⟨hasc, hperm⟩ := hr.sorted ho (hslice ▸ List.nodup_range)
  rw [hslice] at hperm
  refine ⟨zptr_frame_trans hframe hr.frame, hr.wf, ?_, fun k hk => ?_⟩
  · rw [sortedBlock, hr.n_eq, hnt]
    exact ⟨hperm, hasc⟩
  · rw [hr.outside (.inr hk), hat, if_neg (Nat.not_lt.2 hk)]

theorem exec_bwtSmallSort (s : State) : exec .bwtSmallSort s = perform smallSortOp s := rfl

/-- Settles O33: the last pass of Shell sort is an insertion sort of the identity rearranged. -/
theorem smallSortMeetsContract : Obligations.SmallSortMeetsContract := by
  intro s _ ha hn
  obtain ⟨⟨⟩, t, hop, hframe, -, hsorted, hrest⟩ := (smallSortOp_completes hn ha.2.1).perform
  exact ⟨t, (exec_bwtSmallSort s).trans hop, hframe, hsorted, hrest⟩

end Sys2Proof.Machine
end

/-! PROOFS. The family `44_block_sorter.md`, `median3` (R232) and `partition` (R233): the scans stop, and what they
leave behind is on its side of the pivot. -/
section
namespace Sys2Proof.Machine

variable {s t : State} {lo e : Nat} {p : Word}

/-! ## `median3` (R232) -/

/-- `median3` after its first exchange, so with `a` not after `b`. -/
def medianLast (a b c : Word) : Seq Word := do
  let gbc ← fullGtOp b c
  if gbc then do
    let gac ← fullGtOp a c
    pure (if gac then a else c)
  else pure b

theorem median3Op_eq (a b c : Word) :
    median3Op a b c = fullGtOp a b >>= fun gab => if gab then medianLast b a c else medianLast a b c := by
  unfold median3Op
  congr 1
  funext gab
  cases gab <;> rfl

/-- `m` is the middle one of three start positions (R232). -/
def IsMedian (s : State) (a b c m : Word) : Prop :=
  ∃ x y : Word, [x, m, y].Perm [a, b, c] ∧ rotKey s x.toNat ≤ rotKey s m.toNat ∧
    rotKey s m.toNat ≤ rotKey s y.toNat

theorem IsMedian.mem {a b c m : Word} (h : IsMedian s a b c m) : m = a ∨ m = b ∨ m = c := by
  obtain ⟨x, y, hperm, -, -⟩ := h
  have hmem : m ∈ [a, b, c] := hperm.subset (by simp)
  simpa using hmem

theorem medianLast_completes {a b c : Word} (hp : padded s) (hn : s.n.toNat ≤ capMax s.par)
    (ha : a.toNat < s.n.toNat) (hb : b.toNat < s.n.toNat) (hc : c.toNat < s.n.toNat)
    (hab : rotKey s a.toNat ≤ rotKey s b.toNat) :
    Completes s (medianLast a b c) fun m t => t = s ∧ IsMedian s a b c m := by
  refine .ok_bind (fullGtOp_apply hn hb hc) (.ite (fun hbc => ?_) fun hbc => ?_)
  · rw [rotGt_iff hp hb hc] at hbc
    refine .ok_bind (fullGtOp_apply hn ha hc) (.pure ⟨rfl, ?_⟩)
    split
    next hac =>
      rw [rotGt_iff hp ha hc] at hac
      exact ⟨c, b, (List.perm_append_comm (l₁ := [c]) (l₂ := [a, b])), hac.le, hab⟩
    next hac =>
      rw [rotGt_iff hp ha hc, not_lt] at hac
      exact ⟨a, b, .cons a (.swap b c []), hac, hbc.le⟩
  · rw [rotGt_iff hp hb hc, not_lt] at hbc
    exact .pure ⟨rfl, a, c, .refl _, hab, hbc⟩

theorem median3Op_completes {a b c : Word} (hp : padded s) (hn : s.n.toNat ≤ capMax s.par)
    (ha : a.toNat < s.n.toNat) (hb : b.toNat < s.n.toNat) (hc : c.toNat < s.n.toNat) :
    Completes s (median3Op a b c) fun m t => t = s ∧ IsMedian s a b c m := by
  rw [median3Op_eq]
  refine .ok_bind (fullGtOp_apply hn ha hb) (.ite (fun hab => ?_) fun hab => ?_)
  · rw [rotGt_iff hp ha hb] at hab
    refine .mono (medianLast_completes hp hn hb ha hc hab.le) fun m t ⟨ht, x, y, hperm, hx, hy⟩ => ?_
    exact ⟨ht, x, y, hperm.trans (.swap a b [c]), hx, hy⟩
  · rw [rotGt_iff hp ha hb, not_lt] at hab
    exact medianLast_completes hp hn ha hb hc hab

theorem exec_bwtMedian3 (a b c : Word) (s : State) :
    exec (.bwtMedian3 a b c) s = performValue (fun w => [w]) (median3Op a b c) s := rfl

/-- Settles O40: at most three comparisons put the three in order. -/
theorem median3ReturnsTheMiddle : Obligations.Median3ReturnsTheMiddle := by
  intro s a b c hp hn ha hb hc
  obtain ⟨m, t, hop, rfl, x, y, hperm, hx, hy⟩ := (median3Op_completes hp hn ha hb hc).ends
  exact ⟨x, m, y, (exec_bwtMedian3 a b c t).trans (performValue_of_ok hop), hperm, not_rotLess_iff.2 hx,
    not_rotLess_iff.2 hy⟩

/-! ## Comparisons within a range being rearranged -/

/-- What SortReady says of a range holds while the range is rearranged. -/
theorem Rearranges.zptr_lt (hs : SortReady lo e s) (hr : Rearranges lo e s t) {k : Nat} (hlo : lo ≤ k)
    (he : k < e) : (arrGet t.zptr k).toNat < s.n.toNat :=
  hr.moved.forall_mem (P := (· < s.n.toNat)) hs.starts k hlo he

theorem Rearranges.readZptr (hs : SortReady lo e s) (hr : Rearranges lo e s t) {k : Nat} (he : k < e) :
    readZptr k t = .ok (arrGet t.zptr k) t :=
  (hs.rearranged hr le_rfl le_rfl).readZptr he

theorem Rearranges.fullGtOp (hs : SortReady lo e s) (hr : Rearranges lo e s t) {a b : Word}
    (ha : a.toNat < s.n.toNat) (hb : b.toNat < s.n.toNat) : fullGtOp a b t = .ok (rotGt t a b) t :=
  fullGtOp_apply (hs.rearranged hr le_rfl le_rfl).n_le (by rwa [hr.n_eq]) (by rwa [hr.n_eq])

theorem Rearranges.rotGt_iff (hs : SortReady lo e s) (hr : Rearranges lo e s t) {a b : Word}
    (ha : a.toNat < s.n.toNat) (hb : b.toNat < s.n.toNat) :
    rotGt t a b = true ↔ rotKey s b.toNat < rotKey s a.toNat := by
  rw [← Machine.rotLess_iff, ← hr.rotLess_iff, rotGt,
    fullGt_iff (hs.rearranged hr le_rfl le_rfl).padded (by rwa [hr.n_eq]) (by rwa [hr.n_eq])]

/-! ## The scans of `partition` (R233) -/

theorem scanUp_completes (hs : SortReady lo e s) (hr : Rearranges lo e s t) (hp : p.toNat < s.n.toNat)
    {q : Nat} (hq : q < e) (hstop : rotKey s p.toNat ≤ rotKey s (zptrAt t q)) :
    ∀ fuel i : Nat, lo ≤ i → i ≤ q → q < i + fuel →
    Completes t (scanUp p fuel i) fun r u => u = t ∧ i ≤ r ∧ r ≤ q ∧
      (∀ k, i ≤ k → k < r → rotKey s (zptrAt t k) < rotKey s p.toNat) ∧
      rotKey s p.toNat ≤ rotKey s (zptrAt t r)
  | 0, i, _, hi, hfuel => by omega
  | fuel + 1, i, hlo, hi, hfuel => by
    have hz := hr.zptr_lt hs hlo (by omega)
    refine .ok_bind (hr.readZptr hs (by omega)) (.ok_bind (hr.fullGtOp hs hp hz) ?_)
    refine .ite (fun hgt => ?_) fun hgt => ?_
    · have hlt : rotKey s (zptrAt t i) < rotKey s p.toNat := (hr.rotGt_iff hs hp hz).1 hgt
      have hne : i ≠ q := fun hiq => absurd (hiq ▸ hlt) (not_lt.2 hstop)
      refine .mono (scanUp_completes hs hr hp hq hstop fuel (i + 1) (by omega) (by omega) (by omega)) ?_
      rintro r u ⟨hu, hir, hrq, hbefore, hat⟩
      refine ⟨hu, by omega, hrq, fun k h1 h2 => ?_, hat⟩
      obtain rfl | hik := Nat.eq_or_lt_of_le h1
      · exact hlt
      · exact hbefore k hik h2
    · rw [hr.rotGt_iff hs hp hz, not_lt] at hgt
      exact .pure ⟨rfl, le_rfl, hi, fun k h1 h2 => by omega, hgt⟩

theorem scanDown_completes (hs : SortReady lo e s) (hr : Rearranges lo e s t) (hp : p.toNat < s.n.toNat)
    {q : Nat} (hq : lo ≤ q) (hstop : rotKey s (zptrAt t q) ≤ rotKey s p.toNat) :
    ∀ j : Nat, q ≤ j → j < e →
    Completes t (scanDown p j) fun r u => u = t ∧ q ≤ r ∧ r ≤ j ∧
      (∀ k, r < k → k ≤ j → rotKey s p.toNat < rotKey s (zptrAt t k)) ∧
      rotKey s (zptrAt t r) ≤ rotKey s p.toNat
  | 0, hqj, hj => by
    obtain rfl : q = 0 := by omega
    have hz := hr.zptr_lt hs hq hj
    refine .ok_bind (hr.readZptr hs hj) (.ok_bind (hr.fullGtOp hs hz hp) ?_)
    refine .ite (fun hgt => ?_) fun _ => .pure ⟨rfl, le_rfl, le_rfl, fun k h1 h2 => by omega, hstop⟩
    exact absurd ((hr.rotGt_iff hs hz hp).1 hgt) (not_lt.2 hstop)
  | j + 1, hqj, hj => by
    have hz := hr.zptr_lt hs (hq.trans hqj) hj
    refine .ok_bind (hr.readZptr hs hj) (.ok_bind (hr.fullGtOp hs hz hp) ?_)
    refine .ite (fun hgt => ?_) fun hgt => ?_
    · have hafter : rotKey s p.toNat < rotKey s (zptrAt t (j + 1)) := (hr.rotGt_iff hs hz hp).1 hgt
      have hne : q ≠ j + 1 := fun hq => absurd (hq ▸ hafter) (not_lt.2 hstop)
      refine .mono (scanDown_completes hs hr hp hq hstop j (by omega) (by omega)) ?_
      rintro r u ⟨hu, hqr, hrj, hbeyond, hat⟩
      refine ⟨hu, hqr, by omega, fun k h1 h2 => ?_, hat⟩
      obtain rfl | hlt := Nat.eq_or_lt_of_le h2
      · exact hafter
      · exact hbeyond k h1 (by omega)
    · rw [hr.rotGt_iff hs hz hp, not_lt] at hgt
      exact .pure ⟨rfl, hqj, le_rfl, fun k h1 h2 => by omega, hgt⟩

/-! ## The exchanges of `partition` -/

theorem exchangeZptr_apply {i j : Nat} (hi : i < capMax t.par) (hj : j < capMax t.par) :
    exchangeZptr i j t = .ok () (exchanged t i j) := by
  have hput : ∀ v, writeZptr j v (zptrPut t i (arrGet t.zptr j)) =
      .ok () (zptrPut (zptrPut t i (arrGet t.zptr j)) j v) := writeZptr_apply hj
  simp only [exchangeZptr, seq_bind, readZptr_of_lt hi, readZptr_of_lt hj, writeZptr_apply hi, hput]
  rfl

theorem zptrAt_exchanged (hwf : arrWf t.zptr = true) (i j : Nat) :
    zptrAt (exchanged t i j) = zptrAt t ∘ Equiv.swap i j := by
  funext k
  rw [Function.comp_apply, Equiv.swap_apply_def]
  split
  next hk => rw [hk, zptrAt, arrGet_exchanged_left hwf, zptrAt]
  next hki =>
    split
    next hk => rw [hk, zptrAt, arrGet_exchanged_right hwf, zptrAt]
    next hkj =>
      rw [zptrAt, exchanged, arrGet_arrSet_other _ _ _ _ hkj (arrWf_arrSet hwf _ _),
        arrGet_arrSet_other _ _ _ _ hki hwf, zptrAt]

theorem Rearranges.exchanged {i j : Nat} (hr : Rearranges lo e s t) (hi1 : lo ≤ i) (hi2 : i < e)
    (hj1 : lo ≤ j) (hj2 : j < e) : Rearranges lo e s (exchanged t i j) where
  frame := zptr_frame_trans hr.frame rfl
  wf := arrWf_arrSet (arrWf_arrSet hr.wf _ _) _ _
  moved := by
    rw [zptrAt_exchanged hr.wf]
    exact hr.moved.trans (.comp_swap hi1 hi2 hj1 hj2 _)

/-! ## The loop of `partition` -/

/-- `ZPTR[lo..e)` rearranged, no element below place `i` after the pivot and none from place `j` on before it. -/
structure Parted (s : State) (lo e : Nat) (p : Word) (i j : Nat) (t : State) : Prop where
  moved : Rearranges lo e s t
  low : ∀ k, lo ≤ k → k < i → rotKey s (zptrAt t k) ≤ rotKey s p.toNat
  high : ∀ k, j ≤ k → k < e → rotKey s p.toNat ≤ rotKey s (zptrAt t k)

/-- What `partition` leaves: the parts are `ZPTR[lo..j)` and `ZPTR[i..e)`, both smaller than the range, with one
element between them at most (R233). -/
structure Split (s : State) (lo e : Nat) (p : Word) (i j : Nat) (t : State) : Prop where
  parted : Parted s lo e p i j t
  j_le : j ≤ i
  i_le : i ≤ j + 1
  lo_lt : lo < i
  i_le_e : i ≤ e
  lo_le : lo ≤ j
  j_lt : j < e

/-- What stands between the parts is the pivot. -/
theorem Split.middle {i j : Nat} (h : Split s lo e p i j t) {k : Nat} (hj : j ≤ k) (hi : k < i) :
    zptrAt t k = p.toNat :=
  have := h.lo_le
  have := h.i_le_e
  rotKey_injective s ((h.parted.low k (by omega) hi).antisymm (h.parted.high k hj (by omega)))

/-- Both scans moved on. -/
theorem Parted.scanned {i j i' j' : Nat} (h : Parted s lo e p i (j + 1) t)
    (hup : ∀ k, i ≤ k → k < i' → rotKey s (zptrAt t k) < rotKey s p.toNat)
    (hdown : ∀ k, j' < k → k ≤ j → rotKey s p.toNat < rotKey s (zptrAt t k)) :
    Parted s lo e p i' (j' + 1) t where
  moved := h.moved
  low := fun k h1 h2 => by
    by_cases hk : k < i
    · exact h.low k h1 hk
    · exact (hup k (by omega) h2).le
  high := fun k h1 h2 => by
    by_cases hk : k ≤ j
    · exact (hdown k h1 hk).le
    · exact h.high k (by omega) h2

/-- The elements the scans stopped at exchanged. -/
theorem Parted.exchanged {i j : Nat} (h : Parted s lo e p i (j + 1) t) (hlo : lo ≤ i) (hij : i ≤ j)
    (he : j < e) (hi : rotKey s p.toNat ≤ rotKey s (zptrAt t i))
    (hj : rotKey s (zptrAt t j) ≤ rotKey s p.toNat) : Parted s lo e p (i + 1) j (exchanged t i j) where
  moved := h.moved.exchanged hlo (by omega) (by omega) he
  low := fun k h1 h2 => by
    rw [zptrAt_exchanged h.moved.wf, Function.comp_apply]
    obtain rfl | hne := eq_or_ne k i
    · rwa [Equiv.swap_apply_left]
    · rw [Equiv.swap_apply_of_ne_of_ne hne (by omega)]
      exact h.low k h1 (by omega)
  high := fun k h1 h2 => by
    rw [zptrAt_exchanged h.moved.wf, Function.comp_apply]
    obtain rfl | hne := eq_or_ne k j
    · rwa [Equiv.swap_apply_right]
    · rw [Equiv.swap_apply_of_ne_of_ne (by omega) hne]
      exact h.high k (by omega) h2

/-- Scans that have crossed stand next to each other: an element between them would be on both sides of the pivot. -/
theorem Parted.adjacent {i j i' j' : Nat} (h : Parted s lo e p i (j + 1) t) (hlo : lo ≤ j') (hi' : i' ≤ e)
    (hij : i ≤ j) (hup : ∀ k, i ≤ k → k < i' → rotKey s (zptrAt t k) < rotKey s p.toNat)
    (hdown : ∀ k, j' < k → k ≤ j → rotKey s p.toNat < rotKey s (zptrAt t k)) (hcross : j' < i') :
    i' = j' + 1 := by
  by_contra hne
  by_cases hj : j' + 1 ≤ j
  · have hafter := hdown (j' + 1) (Nat.lt_succ_self _) hj
    by_cases hi : i ≤ j' + 1
    · exact lt_asymm hafter (hup _ hi (by omega))
    · exact absurd (h.low (j' + 1) (by omega) (by omega)) (not_le.2 hafter)
  · have hbefore := hup (j' + 1) (by omega) (by omega)
    exact absurd (h.high (j' + 1) (by omega) (by omega)) (not_le.2 hbefore)

/-- The loop of R233. `qi` and `qj` are places that end the next scans: one place that ends both at first, after an
exchange the two exchanged. -/
theorem partitionLoop_completes (hs : SortReady lo e s) (hp : p.toNat < s.n.toNat) :
    ∀ (fuel i j qi qj : Nat) {t : State}, Parted s lo e p i (j + 1) t → i ≤ j → j < e → j < fuel →
    lo ≤ i → i ≤ qi → qi < e → rotKey s p.toNat ≤ rotKey s (zptrAt t qi) →
    lo ≤ qj → qj ≤ j → rotKey s (zptrAt t qj) ≤ rotKey s p.toNat →
    (lo < i ∧ j + 1 < e ∨ qi ≤ qj) →
    Completes t (partitionLoop p fuel i j) fun ij u =>
      ∃ m : Nat, ij.2 = (m : Int) - 1 ∧ Split s lo e p ij.1 m u
  | 0, _, _, _, _, _, _, _, _, hfuel, _, _, _, _, _, _, _, _ => absurd hfuel (Nat.not_lt_zero _)
  | fuel + 1, i, j, qi, qj, t, h, hij, hje, hfuel, hlo, hqi1, hqi2, hqi, hqj1, hqj2, hqj, hprogress => by
    have hcap := hs.hi_le
    have hpar := h.moved.par_eq
    refine .get (.bind (scanUp_completes hs h.moved hp hqi2 hqi _ i hlo hqi1 (by rw [hpar]; omega)) ?_)
    rintro i' _ ⟨rfl, hii, hiq, hup, hati⟩
    refine .bind (scanDown_completes hs h.moved hp hqj1 hqj j hqj2 hje) ?_
    rintro j' t ⟨rfl, hqj', hjj, hdown, hatj⟩
    have hscanned := h.scanned hup hdown
    refine .ite (fun hle => ?_) fun hcross => ?_
    · have hex := hscanned.exchanged (by omega) hle (by omega) hati hatj
      refine .ok_bind (exchangeZptr_apply (by rw [hpar]; omega) (by rw [hpar]; omega))
        (.ite (fun hlt => ?_) fun hge => ?_)
      · have hback : j' - 1 + 1 = j' := by omega
        exact partitionLoop_completes hs hp fuel (i' + 1) (j' - 1) j' i' (by rwa [hback]) (by omega)
          (by omega) (by omega) (by omega) (by omega) (by omega) (hex.high j' le_rfl (by omega)) (by omega)
          (by omega) (hex.low i' (by omega) (Nat.lt_succ_self _)) (.inl (by omega))
      · have hsplit : Split s lo e p (i' + 1) j' (Machine.exchanged t i' j') :=
          ⟨hex, by omega, by omega, by omega, by omega, by omega, by omega⟩
        exact .pure ⟨j', rfl, hsplit⟩
    · have hadj := h.adjacent (by omega) (by omega) hij hup hdown (by omega)
      have hsplit : Split s lo e p i' (j' + 1) t :=
        ⟨hscanned, by omega, by omega, by omega, by omega, by omega, by omega⟩
      exact .pure ⟨j' + 1, by dsimp only; omega, hsplit⟩

theorem partitionOp_completes {lo hi : Word} (hs : SortReady lo.toNat (hi.toNat + 1) s)
    (hle : lo.toNat ≤ hi.toNat) {q : Nat} (hq1 : lo.toNat ≤ q) (hq2 : q ≤ hi.toNat)
    (hq : zptrAt s q = p.toNat) :
    Completes s (partitionOp lo hi p) fun ij t =>
      ∃ m : Nat, ij.2 = (m : Int) - 1 ∧ Split s lo.toNat (hi.toNat + 1) p ij.1 m t := by
  have hp : p.toNat < s.n.toNat := hq ▸ hs.starts q hq1 (by omega)
  have hself : rotKey s p.toNat = rotKey s (zptrAt s q) := by rw [hq]
  exact partitionLoop_completes hs hp _ _ _ q q
    ⟨.refl hs.wf, fun k h1 h2 => by omega, fun k h1 h2 => by omega⟩ hle (Nat.lt_succ_self _)
    (Nat.lt_succ_self _) le_rfl hq1 (by omega) hself.le hq1 hq2 hself.ge (.inr le_rfl)

theorem exec_bwtPartition (lo hi p : Word) (s : State) :
    exec (.bwtPartition lo hi p) s =
      performValue (fun ij => [BitVec.ofNat 32 ij.1, BitVec.ofInt 32 ij.2]) (partitionOp lo hi p) s := rfl

/-- Settles O38: every exchange leaves elements behind that end the scans, and scans that cross leave nothing between
them but the pivot. -/
theorem partitionSplitsARange : Obligations.PartitionSplitsARange := by
  intro s lo hi p _ ha hp hn hle hhi hstarts hmem
  obtain ⟨d, hd, hq⟩ := List.mem_map.1 hmem
  rw [List.mem_range] at hd
  obtain ⟨⟨i, j⟩, t, hop, m, hj, hsplit⟩ :=
    (partitionOp_completes ⟨hp, hn, hhi, ha.2.1, hstarts⟩ hle (Nat.le_add_right _ d) (by omega) hq).ends
  dsimp only at hj hsplit
  have hmiddle : ∀ k, m ≤ k → k < i → zptrAt t k = p.toNat := fun k => hsplit.middle
  obtain ⟨⟨hr, hlow, hhigh⟩, hmi, him, hlo, hie, hlom, hme⟩ := hsplit
  refine ⟨_, i, j, (exec_bwtPartition lo hi p s).trans (performValue_of_ok hop), ?_, by omega, by omega, hlo,
    hie, by omega, by omega, fun k h1 h2 => ?_, fun k h1 h2 => ?_, fun k h1 h2 => ?_, hr.slice_perm,
    fun k hk => hr.outside (by omega)⟩
  · exact congrArg (fun u => { u with result := [BitVec.ofNat 32 i, BitVec.ofInt 32 j] }) hr.frame
  · exact not_rotLess_iff.2 (hlow k h1 (by omega))
  · exact not_rotLess_iff.2 (hhigh k (by omega) (by omega))
  · exact hmiddle k (by omega) h2

end Sys2Proof.Machine
end

/-! PROOFS. The family `44_block_sorter.md`, `bwt.qsort` (R231): a range taken off the stack leads, after a known
number of tests, to the same stack without it and the range in order. -/
section
namespace Sys2Proof.Machine

variable {s t u v : State} {lo e a b c d : Nat}

/-! ## Runs of the stack loop -/

/-- `k` tests of the stack loop lead from `t` to `u`. -/
def QsortRuns (k : Nat) (t u : State) : Prop := ∀ fuel, qsortLoop (fuel + k) t = qsortLoop fuel u

theorem QsortRuns.refl (t : State) : QsortRuns 0 t t := fun _ => rfl

theorem QsortRuns.trans {j k : Nat} (h : QsortRuns j t u) (h' : QsortRuns k u v) : QsortRuns (k + j) t v :=
  fun fuel => (congrArg (qsortLoop · t) (Nat.add_assoc fuel k j).symm).trans ((h (fuel + k)).trans (h' fuel))

/-- One test takes the range on top of the stack. -/
theorem QsortRuns.of_range {range : Word × Word} {stack : List (Word × Word)}
    (h : qsortRange range.1 range.2 { t with qstack := stack } = .ok () u) :
    QsortRuns 1 { t with qstack := range :: stack } u := by
  intro fuel
  rw [qsortLoop, seq_bind_of_ok (seq_get _)]
  exact (seq_bind_of_ok (seq_set ..) _).trans (seq_bind_of_ok h _)

/-- The stack after a range is pushed on it, if it has two elements at least (R231). -/
def pushedOn (first second : Int) (stack : List (Word × Word)) : List (Word × Word) :=
  if first < second then (BitVec.ofInt 32 first, BitVec.ofInt 32 second) :: stack else stack

theorem pushRange_apply (first second : Int) (t : State) :
    pushRange first second t = .ok () { t with qstack := pushedOn first second t.qstack } := by
  unfold pushRange pushedOn
  split <;> rfl

/-! ## One range (R231) -/

theorem Rearranges.ordered_iff {lo' hi' : Nat} (hr : Rearranges lo' hi' s t) :
    Ordered t lo e u ↔ Ordered s lo e u := by
  simp only [Ordered, ← not_rotLess_iff, hr.rotLess_iff]

/-- A range rearranged with the stack as it was. -/
theorem Rearranges.restacked (hr : Rearranges lo e s t) : { t with qstack := s.qstack } = t := by
  rw [hr.frame]

/-- The stack is no part of what sorting a range does. -/
theorem Rearranges.unstacked {stack : List (Word × Word)} (hr : Rearranges lo e { t with qstack := stack } v)
    (ho : Ordered { t with qstack := stack } lo e v) :
    ∃ u, v = { u with qstack := stack } ∧ Rearranges lo e t u ∧ Ordered t lo e u :=
  ⟨{ t with zptr := v.zptr }, hr.frame, ⟨rfl, hr.wf, hr.moved⟩, ho⟩

/-- A pivot between the parts of a range, and the parts in order: the range is in order. -/
theorem Parted.ordered {p : Word} {i j : Nat} (h : Parted s lo e p i j t) (hlow : Ordered s lo j t)
    (hhigh : Ordered s i e t) : Ordered s lo e t := by
  intro x y hx hxy hy
  by_cases hyj : y < j
  · exact hlow x y hx hxy hyj
  by_cases hix : i ≤ x
  · exact hhigh x y hix hxy hy
  exact (h.low x hx (by omega)).trans (h.high y (by omega) hy)

/-- A range is sorted at once, or split into two parts that are pushed in one order or the other (R231). -/
theorem qsortRange_completes {lo hi : Word} (hs : SortReady lo.toNat (hi.toNat + 1) t)
    (hle : lo.toNat ≤ hi.toNat) :
    Completes t (qsortRange lo hi) fun _ w =>
      Rearranges lo.toNat (hi.toNat + 1) t w ∧ Ordered t lo.toNat (hi.toNat + 1) w ∨
      ∃ p i m v, Split t lo.toNat (hi.toNat + 1) p i m v ∧
        (w = { v with qstack := pushedOn lo.toNat ((m : Int) - 1) (pushedOn i hi.toNat v.qstack) } ∨
          w = { v with qstack := pushedOn i hi.toNat (pushedOn lo.toNat ((m : Int) - 1) v.qstack) }) := by
  refine .ite (fun _ => .mono (insertionOp_completes hs hle) fun _ w hw => .inl hw) fun _ => ?_
  have hmid : (lo.toNat + hi.toNat) / 2 < hi.toNat + 1 := by omega
  refine .ok_bind (hs.readZptr (by omega)) (.ok_bind (hs.readZptr hmid) (.ok_bind (hs.readZptr (by omega)) ?_))
  refine .bind (median3Op_completes hs.padded hs.n_le (hs.starts _ le_rfl (by omega))
    (hs.starts _ (by omega) hmid) (hs.starts _ hle (by omega))) ?_
  rintro p t ⟨rfl, hmedian⟩
  have hpivot : ∃ q, lo.toNat ≤ q ∧ q ≤ hi.toNat ∧ zptrAt t q = p.toNat := by
    rcases hmedian.mem with rfl | rfl | rfl
    · exact ⟨_, le_rfl, hle, rfl⟩
    · exact ⟨_, by omega, by omega, rfl⟩
    · exact ⟨_, hle, le_rfl, rfl⟩
  obtain ⟨q, hq1, hq2, hq⟩ := hpivot
  refine .bind (partitionOp_completes hs hle hq1 hq2 hq) ?_
  rintro ⟨i, j⟩ v ⟨m, hj, hsplit⟩
  dsimp only at hj hsplit
  subst hj
  refine .ite (fun _ => ?_) fun _ => ?_
  · exact .ok_bind (pushRange_apply ..) (.of_ok (pushRange_apply ..) (.inr ⟨p, i, m, v, hsplit, .inl rfl⟩))
  · exact .ok_bind (pushRange_apply ..) (.of_ok (pushRange_apply ..) (.inr ⟨p, i, m, v, hsplit, .inr rfl⟩))

/-! ## The parts of a range -/

/-- Every range of fewer than `size` elements after its first is sorted when it is taken off the stack. -/
def SortsBelow (size : Nat) : Prop :=
  ∀ (lo hi : Word) (t : State) (stack : List (Word × Word)), hi.toNat - lo.toNat < size →
    lo.toNat ≤ hi.toNat → SortReady lo.toNat (hi.toNat + 1) t →
    ∃ (k : Nat) (u : State), k ≤ 2 * (hi.toNat - lo.toNat) + 1 ∧
      QsortRuns k { t with qstack := (lo, hi) :: stack } { u with qstack := stack } ∧
      Rearranges lo.toNat (hi.toNat + 1) t u ∧ Ordered t lo.toNat (hi.toNat + 1) u

/-- One part, pushed or dropped. -/
theorem SortsBelow.part {size : Nat} (ih : SortsBelow size) (hsize : b ≤ a + size) (hb : b ≤ 2 ^ 32)
    (hs : SortReady a b t) (stack : List (Word × Word)) :
    ∃ (k : Nat) (u : State), (k : Int) ≤ pushWork a ((b : Int) - 1) ∧
      QsortRuns k { t with qstack := pushedOn a ((b : Int) - 1) stack } { u with qstack := stack } ∧
      Rearranges a b t u ∧ Ordered t a b u := by
  unfold pushedOn pushWork
  by_cases hlt : (a : Int) < (b : Int) - 1
  · rw [if_pos hlt, if_pos hlt]
    have ha : (BitVec.ofInt 32 (a : Int)).toNat = a := by
      rw [BitVec.toNat_ofInt]
      omega
    have hb' : (BitVec.ofInt 32 ((b : Int) - 1)).toNat + 1 = b := by
      rw [BitVec.toNat_ofInt]
      omega
    obtain ⟨k, u, hk, hrun, hr, ho⟩ := ih (.ofInt 32 a) (.ofInt 32 ((b : Int) - 1)) t stack
      (by omega) (by omega) (by rwa [ha, hb'])
    rw [ha, hb'] at hr ho
    exact ⟨k, u, by omega, hrun, hr, ho⟩
  · rw [if_neg hlt, if_neg hlt]
    exact ⟨0, t, le_rfl, .refl _, .refl hs.wf, fun j k h1 h2 h3 => by omega⟩

/-- Two parts of a range, one pushed after the other: the later is sorted first. -/
theorem SortsBelow.parts {size : Nat} (ih : SortsBelow size) (hs : SortReady lo e t) (he : e ≤ 2 ^ 32)
    (hab : b ≤ a + size) (hcd : d ≤ c + size) (hb : b ≤ e) (hd : d ≤ e) (ha : lo ≤ a) (hc : lo ≤ c)
    (stack : List (Word × Word)) :
    ∃ (k : Nat) (v u : State),
      (k : Int) ≤ pushWork a ((b : Int) - 1) + pushWork c ((d : Int) - 1) ∧
      QsortRuns k { t with qstack := pushedOn c ((d : Int) - 1) (pushedOn a ((b : Int) - 1) stack) }
        { u with qstack := stack } ∧
      Rearranges c d t v ∧ Ordered t c d v ∧ Rearranges a b v u ∧ Ordered v a b u := by
  obtain ⟨j, v, hj, hrun, hr, ho⟩ := ih.part hcd (hd.trans he) (hs.mono hc hd)
    (pushedOn a ((b : Int) - 1) stack)
  obtain ⟨k, u, hk, hrun', hr', ho'⟩ := ih.part hab (hb.trans he)
    ((hs.rearranged hr hc hd).mono ha hb) stack
  exact ⟨k + j, v, u, by omega, hrun.trans hrun', hr, ho, hr', ho'⟩

/-- Rearranging the part before the pivot leaves the range parted. -/
theorem Parted.rearranged_low {p : Word} {i j : Nat} (h : Parted s lo e p i j t) (hji : j ≤ i) (hie : i ≤ e)
    (hr : Rearranges lo j t u) : Parted s lo e p i j u where
  moved := h.moved.trans (hr.mono le_rfl (hji.trans hie))
  low := (hr.moved.mono le_rfl hji).forall_mem (P := fun z => rotKey s z ≤ rotKey s p.toNat) h.low
  high := fun k h1 h2 => by
    rw [hr.outside (.inr h1)]
    exact h.high k h1 h2

/-- So does rearranging the part after it. -/
theorem Parted.rearranged_high {p : Word} {i j : Nat} (h : Parted s lo e p i j t) (hlo : lo ≤ i) (hji : j ≤ i)
    (hr : Rearranges i e t u) : Parted s lo e p i j u where
  moved := h.moved.trans (hr.mono hlo le_rfl)
  low := fun k h1 h2 => by
    rw [hr.outside (.inl h2)]
    exact h.low k h1 h2
  high := (hr.moved.mono hji le_rfl).forall_mem (P := fun z => rotKey s p.toNat ≤ rotKey s z) h.high

/-- Rearranging one part leaves the other in order. -/
theorem Ordered.rearranged (ho : Ordered s c d t) (hr : Rearranges a b t u) (hapart : d ≤ a ∨ b ≤ c) :
    Ordered s c d u := by
  intro j k hj hjk hk
  rw [hr.outside (by omega), hr.outside (by omega)]
  exact ho j k hj hjk hk

/-- Both parts of a split range sorted, in either order: the range is in order. -/
theorem SortsBelow.split {size : Nat} (ih : SortsBelow size) {p : Word} {i m : Nat} {lo hi : Word}
    (hsize : hi.toNat ≤ lo.toNat + size) (hs : SortReady lo.toNat (hi.toNat + 1) s)
    (h : Split s lo.toNat (hi.toNat + 1) p i m t) {w : State}
    (hw : w = { t with qstack := pushedOn lo.toNat ((m : Int) - 1) (pushedOn i hi.toNat t.qstack) } ∨
      w = { t with qstack := pushedOn i hi.toNat (pushedOn lo.toNat ((m : Int) - 1) t.qstack) }) :
    ∃ (k : Nat) (u : State), k ≤ 2 * (hi.toNat - lo.toNat) ∧ QsortRuns k w u ∧
      Rearranges lo.toNat (hi.toNat + 1) s u ∧ Ordered s lo.toNat (hi.toNat + 1) u := by
  obtain ⟨hparted, hmi, him, hlo, hie, hlom, hme⟩ := h
  have hready := hs.rearranged hparted.moved le_rfl le_rfl
  have he : hi.toNat + 1 ≤ 2 ^ 32 := hi.isLt
  have hlast : ((hi.toNat + 1 : Nat) : Int) - 1 = hi.toNat := by omega
  have hwork : pushWork lo.toNat ((m : Int) - 1) + pushWork i hi.toNat ≤ 2 * ((hi.toNat : Int) - lo.toNat) := by
    unfold pushWork
    split <;> split <;> omega
  obtain rfl | rfl := hw
  · obtain ⟨k, v, u, hk, hrun, hr, ho, hr', ho'⟩ := ih.parts hready he (a := i) (b := hi.toNat + 1)
      (c := lo.toNat) (d := m) (by omega) (by omega) le_rfl (by omega) hlo.le le_rfl t.qstack
    rw [hlast] at hk hrun
    have hpu := (hparted.rearranged_low hmi hie hr).rearranged_high hlo.le hmi hr'
    have hlow : Ordered t lo.toNat m u := ho.rearranged hr' (.inl hmi)
    have hhigh : Ordered t i (hi.toNat + 1) u := hr.ordered_iff.1 ho'
    rw [((hr.mono le_rfl hme.le).trans (hr'.mono hlo.le le_rfl)).restacked] at hrun
    exact ⟨k, u, by omega, hrun, hpu.moved, hpu.ordered (hparted.moved.ordered_iff.1 hlow)
      (hparted.moved.ordered_iff.1 hhigh)⟩
  · obtain ⟨k, v, u, hk, hrun, hr, ho, hr', ho'⟩ := ih.parts hready he (a := lo.toNat) (b := m)
      (c := i) (d := hi.toNat + 1) (by omega) (by omega) (by omega) le_rfl le_rfl hlo.le t.qstack
    rw [hlast] at hk hrun
    have hpu := (hparted.rearranged_high hlo.le hmi hr).rearranged_low hmi hie hr'
    have hlow : Ordered t lo.toNat m u := hr.ordered_iff.1 ho'
    have hhigh : Ordered t i (hi.toNat + 1) u := ho.rearranged hr' (.inr hmi)
    rw [((hr.mono hlo.le le_rfl).trans (hr'.mono le_rfl hme.le)).restacked] at hrun
    exact ⟨k, u, by omega, hrun, hpu.moved, hpu.ordered (hparted.moved.ordered_iff.1 hlow)
      (hparted.moved.ordered_iff.1 hhigh)⟩

/-- Every range is sorted when it is taken off the stack: both parts of a split range are smaller (R231). -/
theorem sortsBelow : ∀ size, SortsBelow size
  | 0 => fun _ _ _ _ h => absurd h (Nat.not_lt_zero _)
  | size + 1 => by
    intro lo hi t stack hsize hle hs
    have hs' : SortReady lo.toNat (hi.toNat + 1) { t with qstack := stack } :=
      ⟨hs.padded, hs.n_le, hs.hi_le, hs.wf, hs.starts⟩
    obtain ⟨⟨⟩, w, hop, ⟨hr, ho⟩ | ⟨p, i, m, v, hsplit, hw⟩⟩ := (qsortRange_completes hs' hle).ends
    · obtain ⟨u, rfl, hru, hou⟩ := hr.unstacked ho
      exact ⟨1, u, by omega, .of_range hop, hru, hou⟩
    · obtain ⟨k, w', hk, hrun, hr, ho⟩ := (sortsBelow size).split (by omega) hs' hsplit hw
      obtain ⟨u, rfl, hru, hou⟩ := hr.unstacked ho
      exact ⟨k + 1, u, by omega, .trans (.of_range hop) hrun, hru, hou⟩

/-! ## `bwt.qsort` -/

theorem qsortLoop_empty (h : t.qstack = []) (fuel : Nat) : qsortLoop (fuel + 1) t = .ok () t := by
  rw [qsortLoop, seq_bind_of_ok (seq_get _), h]
  rfl

/-- `bwt.qsort` puts its range in order and leaves its stack empty (R231). -/
theorem qsortOp_completes {lo hi : Word} (hs : SortReady lo.toNat (hi.toNat + 1) s)
    (hle : lo.toNat ≤ hi.toNat) (hq : s.qstack = []) :
    Completes s (qsortOp lo hi) fun _ t =>
      Rearranges lo.toNat (hi.toNat + 1) s t ∧ Ordered s lo.toNat (hi.toNat + 1) t := by
  obtain ⟨k, u, hk, hrun, hr, ho⟩ := sortsBelow (hi.toNat - lo.toNat + 1) lo hi s s.qstack
    (Nat.lt_succ_self _) hle hs
  have htests : qsortTests ((lo, hi) :: s.qstack) = 2 * (hi.toNat - lo.toNat + 1) - k + 1 + k := by
    rw [hq, qsortTests, qsortTests]
    omega
  rw [hr.restacked] at hrun
  have hempty : u.qstack = [] := by rw [hr.frame, hq]
  refine .ok_bind (seq_modify _ _) (.ok_bind (seq_get _) (.of_ok (a := ()) (t := u) ?_ ⟨hr, ho⟩))
  exact ((congrArg (qsortLoop · _) htests).trans (hrun _)).trans (qsortLoop_empty hempty _)

theorem exec_bwtQsort (lo hi : Word) (s : State) :
    exec (.bwtQsort lo hi) s = perform (qsortOp lo hi) s := rfl

/-- Settles O39: each range taken off the stack is sorted, or split about a pivot into parts that will be. -/
theorem qsortSortsARange : Obligations.QsortSortsARange := by
  intro s lo hi _ ha hp hq hn hle hhi hstarts hnodup
  have hs : SortReady lo.toNat (hi.toNat + 1) s := ⟨hp, hn, hhi, ha.2.1, hstarts⟩
  obtain ⟨⟨⟩, t, hop, hr, ho⟩ := (qsortOp_completes hs hle hq).perform
  obtain ⟨hasc, hperm⟩ := hr.sorted ho hnodup
  exact ⟨t, (exec_bwtQsort lo hi s).trans hop, hr.frame, hasc, hperm, fun k hk => hr.outside (by omega)⟩

end Sys2Proof.Machine
end

/-! PROOFS. The family `44_block_sorter.md`, the bucket path: `build_pad` (R224), the counting sort by leading pairs
and the order it leaves between the buckets (R228, R43). -/
section
namespace Sys2Proof.Machine

variable {s t u : State}

/-! ## `build_pad` (R224) -/

/-- The padding built up to `m` bytes: circular bytes of the block behind it. -/
structure PaddedTo (s : State) (m : Nat) (t : State) : Prop where
  frame : t = { s with block := t.block }
  wf : Memory.wf t.block = true
  block : ∀ i, arrGet (w := 8) t.block i =
    if s.n.toNat ≤ i ∧ i < s.n.toNat + m then arrGet (w := 8) s.block ((i - s.n.toNat) % s.n.toNat)
    else arrGet (w := 8) s.block i

/-- A byte that is copied is one of the block, or one copied before. -/
theorem PaddedTo.source {m : Nat} (h : PaddedTo s m t) (hpos : 1 ≤ s.n.toNat) :
    arrGet (w := 8) t.block m = arrGet (w := 8) s.block (m % s.n.toNat) := by
  rw [h.block]
  split
  next hm => rw [← Nat.mod_eq_sub_mod hm.1]
  next hm => rw [Nat.mod_eq_of_lt (by omega)]

theorem PaddedTo.succ {m : Nat} (h : PaddedTo s m t) (hpos : 1 ≤ s.n.toNat) :
    PaddedTo s (m + 1) { t with
      block := arrSet (w := 8) t.block (s.n.toNat + m) (arrGet (w := 8) t.block m) } where
  frame := h.frame.symm ▸ rfl
  wf := arrWf_arrSet h.wf _ _
  block := fun i => by
    by_cases hi : i = s.n.toNat + m
    · subst hi
      rw [arrGet_arrSet_same (w := 8) _ _ _ h.wf, h.source hpos, if_pos (by omega),
        Nat.add_sub_cancel_left]
    · rw [arrGet_arrSet_other (w := 8) _ _ _ _ hi h.wf, h.block]
      exact if_congr (by omega) rfl rfl

theorem buildPadOp_completes (hwf : Memory.wf s.block = true) (hpos : 1 ≤ s.n.toNat)
    (hn : s.n.toNat ≤ capMax s.par) : Completes s buildPadOp fun _ => PaddedTo s wrapPad := by
  refine .get (.mono (.loopUp (PaddedTo s) ⟨rfl, hwf, fun i => (if_neg (by omega)).symm⟩ ?_) fun _ t ht => ?_)
  · intro m t _ hm ht
    have hsize : blockSize t = capMax s.par + wrapPad := by rw [blockSize, ht.frame]
    exact .ok_bind (readBlock_of_lt (by omega)) (.of_ok (writeBlock_of_lt (by omega)) (ht.succ hpos))
  · rwa [Nat.zero_add] at ht

theorem PaddedTo.block_below {m : Nat} (h : PaddedTo s m t) {i : Nat} (hi : i < s.n.toNat) :
    arrGet (w := 8) t.block i = arrGet (w := 8) s.block i :=
  (h.block i).trans (if_neg (by omega))

theorem PaddedTo.padded (h : PaddedTo s wrapPad t) (hpos : 1 ≤ s.n.toNat) : padded t := by
  have hn : t.n = s.n := by rw [h.frame]
  intro m hm
  rw [hn, h.block_below (Nat.mod_lt _ hpos), h.block, if_pos (by omega), Nat.add_sub_cancel_left]

theorem exec_bwtBuildPad (s : State) : exec .bwtBuildPad s = perform buildPadOp s := rfl

/-- Settles O36: in a block shorter than the padding the later bytes are copied from those copied before. -/
theorem buildPadCopiesTheStart : Obligations.BuildPadCopiesTheStart := by
  intro s _ ha hpos hn
  obtain ⟨⟨⟩, t, hop, ht⟩ := (buildPadOp_completes ha.1 hpos hn).perform
  exact ⟨t, (exec_bwtBuildPad s).trans hop, ht.frame, ht.block⟩

/-! ## Leading pairs (R228) -/

theorem leadingPair_eq_pairAt {i : Nat} (hi : i < s.n.toNat) :
    leadingPair s i = pairAt s.block s.n.toNat i := by
  rw [leadingPair, pairAt, rotByte, rotByte, Nat.add_zero, Nat.mod_eq_of_lt hi]

/-- A lesser leading pair is a lesser rotation. -/
theorem rotLess_of_leadingPair_lt (hpos : 0 < s.n.toNat) {a b : Nat}
    (h : leadingPair s a < leadingPair s b) : rotLess s a b := by
  have ha := (rotByte s a 1).isLt
  have hb := (rotByte s b 1).isLt
  unfold leadingPair at h
  refine rotLess_iff_string.2 (.inl ?_)
  obtain hlt | hge := Nat.lt_or_ge (rotByte s a 0).toNat (rotByte s b 0).toNat
  · exact Agree.rotString_lt (k := 0) nofun hpos hlt
  · have heq : rotByte s a 0 = rotByte s b 0 := BitVec.eq_of_toNat_eq (by omega)
    have hlt : (rotByte s a 1).toNat < (rotByte s b 1).toNat := by
      rw [heq] at h
      omega
    exact Agree.rotString_lt (k := 1) (Agree.succ nofun heq) hpos hlt

/-- The statements count in lists of places. -/
theorem length_filter_range (p : Nat → Prop) [DecidablePred p] (n : Nat) :
    ((List.range n).filter fun i => p i).length = Nat.count p n := by
  rw [Nat.count_eq_card_filter_range]
  rfl

/-- FTAB's bucket starts are the statement's (R43). -/
theorem pairsBelow_eq_bucketStart (s : State) (j : Nat) :
    pairsBelow (pairAt s.block s.n.toNat) s.n.toNat j = bucketStart s j := by
  rw [bucketStart, length_filter_range]
  refine le_antisymm (Nat.count_mono_left fun i hi hlt => ?_) (Nat.count_mono_left fun i hi hlt => ?_)
  · rwa [leadingPair_eq_pairAt hi]
  · rwa [← leadingPair_eq_pairAt hi]

/-- A function that keeps the places below `n` apart and below `n` lists them in another order. -/
theorem map_range_perm {f : Nat → Nat} {n : Nat} (hlt : ∀ k, k < n → f k < n)
    (hinj : ∀ j k, j < n → k < n → f j = f k → j = k) : ((List.range n).map f).Perm (List.range n) := by
  refine List.Subperm.perm_of_length_le (List.subperm_of_subset ?_ fun k hk => ?_) (by simp)
  · exact List.nodup_range.map_on fun j hj k hk => hinj j k (List.mem_range.1 hj) (List.mem_range.1 hk)
  · obtain ⟨m, hm, rfl⟩ := List.mem_map.1 hk
    exact List.mem_range.2 (hlt m (List.mem_range.1 hm))

/-! ## The place of a rotation in its bucket (R228) -/

section Places

variable {pair : Nat → Nat} {n : Nat}

theorem pairsBelow_mono {i j : Nat} (h : i ≤ j) : pairsBelow pair n i ≤ pairsBelow pair n j :=
  Nat.count_mono_left fun _ _ hlt => hlt.trans_le h

/-- Buckets do not overlap. -/
theorem bucket_unique {b c k : Nat} (hb : pairsBelow pair n b ≤ k) (hb' : k < pairsBelow pair n (b + 1))
    (hc : pairsBelow pair n c ≤ k) (hc' : k < pairsBelow pair n (c + 1)) : b = c := by
  by_contra hne
  obtain hlt | hlt := Nat.lt_or_gt_of_ne hne
  · have := pairsBelow_mono (pair := pair) (n := n) (show b + 1 ≤ c from hlt)
    omega
  · have := pairsBelow_mono (pair := pair) (n := n) (show c + 1 ≤ b from hlt)
    omega

/-- Where the fill puts rotation `m`: behind those of lesser pairs and those of its pair before it (R228). -/
def placeOf (pair : Nat → Nat) (n m : Nat) : Nat := fillFrom pair n m (pair m)

theorem placeOf_bounds {m : Nat} (hm : m < n) :
    pairsBelow pair n (pair m) ≤ placeOf pair n m ∧ placeOf pair n m < pairsBelow pair n (pair m + 1) := by
  have hlt : pairCount pair (pair m) m < pairCount pair (pair m) n := Nat.count_strict_mono rfl hm
  rw [placeOf, fillFrom, pairsBelow_succ]
  omega

theorem placeOf_lt {m : Nat} (hm : m < n) : placeOf pair n m < n := fillFrom_lt pair hm

/-- Within a bucket the places rise with the start positions. -/
theorem placeOf_lt_of_lt {l m : Nat} (hlm : l < m) (hpair : pair l = pair m) :
    placeOf pair n l < placeOf pair n m := by
  rw [placeOf, placeOf, fillFrom, fillFrom, hpair]
  exact Nat.add_lt_add_left (Nat.count_strict_mono (p := fun k => pair k = pair m) hpair hlm) _

theorem placeOf_inj {l m : Nat} (hl : l < n) (hm : m < n) (h : placeOf pair n l = placeOf pair n m) : l = m := by
  obtain ⟨hl1, hl2⟩ := placeOf_bounds (pair := pair) hl
  obtain ⟨hm1, hm2⟩ := placeOf_bounds (pair := pair) hm
  rw [← h] at hm1 hm2
  have hpair := bucket_unique hl1 hl2 hm1 hm2
  by_contra hne
  obtain hlt | hlt := Nat.lt_or_gt_of_ne hne
  · exact (placeOf_lt_of_lt hlt hpair).ne h
  · exact (placeOf_lt_of_lt hlt hpair.symm).ne h.symm

theorem placeOf_perm (pair : Nat → Nat) (n : Nat) :
    ((List.range n).map (placeOf pair n)).Perm (List.range n) :=
  map_range_perm (fun _ => placeOf_lt) fun _ _ => placeOf_inj

/-- Every place is that of a rotation. -/
theorem exists_placeOf {k : Nat} (hk : k < n) : ∃ m, m < n ∧ placeOf pair n m = k := by
  obtain ⟨m, hm, h⟩ := List.mem_map.1 ((placeOf_perm pair n).mem_iff.2 (List.mem_range.2 hk))
  exact ⟨m, List.mem_range.1 hm, h⟩

end Places

/-! ## The counting sort (R228) -/

/-- The bucket pass of `s` with the counts `f` in the first `m` elements of FTAB; ZPTR from N on as it was. -/
structure Filling (s : State) (f : Nat → Nat) (m : Nat) (t : State) : Prop where
  frame : t = { s with zptr := t.zptr, ftab := t.ftab }
  zptr_wf : arrWf t.zptr = true
  ftab_wf : arrWf t.ftab = true
  counts : FtabHolds f m t
  rest : ∀ k, s.n.toNat ≤ k → zptrAt t k = zptrAt s k

namespace Filling

variable {f g : Nat → Nat} {m j : Nat}

theorem readFtab (h : Filling s f m t) (hj : j < m) (hm : m ≤ numBuckets + 1) :
    readFtab j t = .ok (BitVec.ofNat 32 (f j)) t := by
  rw [readFtab_of_lt (hj.trans_le hm), h.counts j hj]

theorem pairOp (h : Filling s f m t) (hn : s.n.toNat ≤ capMax s.par) (i : Nat) :
    pairOp i t = .ok (pairAt s.block s.n.toNat i) t := by
  have hle : t.n.toNat < capMax t.par + 1 := by
    rw [h.frame]
    exact Nat.lt_succ_of_le hn
  rw [Machine.pairOp, seq_bind_of_ok (seq_get _), seq_bind_of_ok (checkIndex_of_lt hle _), seq_pure, h.frame]

theorem setFtab {m' : Nat} (h : Filling s f m t) (hg : ∀ i, i < m' → i ≠ j → i < m ∧ g i = f i) :
    Filling s g m' { t with ftab := arrSet t.ftab j (BitVec.ofNat 32 (g j)) } where
  frame := h.frame.symm ▸ rfl
  zptr_wf := h.zptr_wf
  ftab_wf := arrWf_arrSet h.ftab_wf _ _
  counts := .set h.ftab_wf fun i hi hij => by
    obtain ⟨him, hgi⟩ := hg i hi hij
    rw [hgi, h.counts i him]
  rest := h.rest

theorem writeFtab_completes {m' : Nat} {v : Word} (h : Filling s f m t) (hj : j < numBuckets + 1)
    (hv : v = BitVec.ofNat 32 (g j)) (hg : ∀ i, i < m' → i ≠ j → i < m ∧ g i = f i) :
    Completes t (writeFtab j v) fun _ => Filling s g m' :=
  hv ▸ .of_ok (writeFtab_of_lt hj) (h.setFtab hg)

theorem setZptr (h : Filling s f m t) (hj : j < s.n.toNat) (v : Word) : Filling s f m (zptrPut t j v) where
  frame := congrArg (zptrPut · j v) h.frame
  zptr_wf := arrWf_arrSet h.zptr_wf _ _
  ftab_wf := h.ftab_wf
  counts := h.counts
  rest := fun k hk => by
    rw [zptrAt_zptrPut h.zptr_wf, Function.update_of_ne (by omega)]
    exact h.rest k hk

/-- The first loop clears FTAB. -/
theorem clear_completes (hz : arrWf s.zptr = true) (hf : arrWf s.ftab = true) :
    Completes s (loopUp (fun j => writeFtab j 0#32) 0 (numBuckets + 1)) fun _ =>
      Filling s (fun _ => 0) (numBuckets + 1) := by
  refine .mono (.loopUp (Filling s fun _ => 0) ⟨rfl, hz, hf, nofun, fun _ _ => rfl⟩ fun j t _ hj ht => ?_)
    fun _ t ht => ?_
  · exact ht.writeFtab_completes (g := fun _ => 0) (by omega) rfl fun i hi hij => ⟨by omega, rfl⟩
  · rwa [Nat.zero_add] at ht

/-- The second counts the leading pairs. -/
theorem count_completes (hn : s.n.toNat ≤ capMax s.par) (h : Filling s (fun _ => 0) (numBuckets + 1) t) :
    Completes t (loopUp (fun i => do
      let j ← Machine.pairOp i
      let c ← Machine.readFtab j
      writeFtab j (c + 1#32)) 0 s.n.toNat) fun _ =>
      Filling s (fun j => pairCount (pairAt s.block s.n.toNat) j s.n.toNat) (numBuckets + 1) := by
  refine .mono (.loopUp
    (fun i => Filling s (fun j => pairCount (pairAt s.block s.n.toNat) j i) (numBuckets + 1))
    (by simpa [pairCount] using h) fun i u _ _ hu => ?_) fun _ u hu => ?_
  · have hlt : pairAt s.block s.n.toNat i < numBuckets + 1 := (pairAt_lt ..).trans (Nat.lt_succ_self _)
    refine .ok_bind (hu.pairOp hn i) (.ok_bind (hu.readFtab hlt le_rfl) ?_)
    refine hu.writeFtab_completes (g := fun j => pairCount (pairAt s.block s.n.toNat) j (i + 1)) hlt ?_
      fun k hk hne => ⟨hk, pairCount_succ_of_ne _ (Ne.symm hne)⟩
    rw [pairCount_succ_self, BitVec.ofNat_add]
  · rwa [Nat.zero_add] at hu

/-- The third makes the counts the ends of the buckets. -/
theorem sum_completes
    (h : Filling s (fun j => pairCount (pairAt s.block s.n.toNat) j s.n.toNat) (numBuckets + 1) t) :
    Completes t (loopUp (fun j => do
      let c ← Machine.readFtab j
      let b ← Machine.readFtab (j - 1)
      writeFtab j (c + b)) 1 (numBuckets - 1)) fun _ =>
      Filling s (partialEnds (pairAt s.block s.n.toNat) s.n.toNat numBuckets) (numBuckets + 1) := by
  have hstart : partialEnds (pairAt s.block s.n.toNat) s.n.toNat 1 =
      fun j => pairCount (pairAt s.block s.n.toNat) j s.n.toNat := by
    funext k
    unfold partialEnds
    split
    next hk =>
      obtain rfl : k = 0 := by omega
      rw [pairsBelow_succ, pairsBelow_zero, Nat.zero_add]
    next => rfl
  refine .loopUp (fun j => Filling s (partialEnds (pairAt s.block s.n.toNat) s.n.toNat j) (numBuckets + 1))
    (by rwa [hstart]) fun j u hj1 hj hu => ?_
  have hj' : j < numBuckets + 1 := by omega
  have hpred : j - 1 + 1 = j := by omega
  refine .ok_bind (hu.readFtab hj' le_rfl) (.ok_bind (hu.readFtab (by omega) le_rfl) ?_)
  refine hu.writeFtab_completes (g := partialEnds (pairAt s.block s.n.toNat) s.n.toNat (j + 1)) hj' ?_
    fun k hk hne => ⟨hk, ?_⟩
  · rw [← BitVec.ofNat_add, partialEnds, partialEnds, partialEnds, if_neg (lt_irrefl j), if_pos (by omega),
      if_pos (Nat.lt_succ_self j), hpred, pairsBelow_succ, Nat.add_comm]
  · have hiff : k < j + 1 ↔ k < j := by omega
    rw [partialEnds, partialEnds, if_congr hiff rfl rfl]

end Filling

/-- The rotations from `i` on stand in their places. -/
def PlacedFrom (pair : Nat → Nat) (n i : Nat) (t : State) : Prop :=
  ∀ m, i ≤ m → m < n → zptrAt t (placeOf pair n m) = m

/-- A rotation put into its place leaves those that stand in theirs (R228). -/
theorem PlacedFrom.set {pair : Nat → Nat} {n i : Nat} {v : Word} (h : PlacedFrom pair n (i + 1) t)
    (hwf : arrWf t.zptr = true) (hi : i < n) (hv : v.toNat = i) :
    PlacedFrom pair n i (zptrPut t (placeOf pair n i) v) := by
  intro m hm hmn
  rw [zptrAt_zptrPut hwf]
  obtain rfl | hne := eq_or_ne m i
  · rw [Function.update_self, hv]
  · rw [Function.update_of_ne fun heq => hne (placeOf_inj hmn hi heq)]
    exact h m (by omega) hmn

/-- The fourth loop puts every rotation into its place (R228). -/
theorem Filling.place_completes (hn : s.n.toNat ≤ capMax s.par)
    (h : Filling s (fillFrom (pairAt s.block s.n.toNat) s.n.toNat s.n.toNat) (numBuckets + 1) t) :
    Completes t (loopDown (fun i => do
      let j ← Machine.pairOp i
      let c ← Machine.readFtab j
      writeFtab j (c - 1#32)
      writeZptr (c - 1#32).toNat (BitVec.ofNat 32 i)) s.n.toNat) fun _ u =>
      Filling s (fillFrom (pairAt s.block s.n.toNat) s.n.toNat 0) (numBuckets + 1) u ∧
        PlacedFrom (pairAt s.block s.n.toNat) s.n.toNat 0 u := by
  set pair := pairAt s.block s.n.toNat
  refine .loopDown (fun i u => Filling s (fillFrom pair s.n.toNat i) (numBuckets + 1) u ∧
    PlacedFrom pair s.n.toNat i u) ⟨h, fun m h1 h2 => by omega⟩ fun i u hi ⟨hu, hplaced⟩ => ?_
  have hnlt := s.n.isLt
  have hlt : pair i < numBuckets + 1 := (pairAt_lt ..).trans (Nat.lt_succ_self _)
  have hplace : placeOf pair s.n.toNat i < s.n.toNat := placeOf_lt hi
  have hc : BitVec.ofNat 32 (fillFrom pair s.n.toNat (i + 1) (pair i)) - 1#32 =
      BitVec.ofNat 32 (placeOf pair s.n.toNat i) := by
    rw [placeOf, fillFrom, fillFrom, pairCount_succ_self, ← Nat.add_assoc, BitVec.ofNat_add,
      BitVec.add_sub_cancel]
  have hidx : (BitVec.ofNat 32 (placeOf pair s.n.toNat i)).toNat = placeOf pair s.n.toNat i := by
    rw [BitVec.toNat_ofNat, Nat.mod_eq_of_lt (by omega)]
  have hval : (BitVec.ofNat 32 i).toNat = i := by
    rw [BitVec.toNat_ofNat, Nat.mod_eq_of_lt (by omega)]
  refine .ok_bind (hu.pairOp hn i) (.ok_bind (hu.readFtab hlt le_rfl) ?_)
  rw [hc, hidx]
  have hset := hu.setFtab (j := pair i) (g := fillFrom pair s.n.toNat i) (m' := numBuckets + 1) fun k hk hne =>
    ⟨hk, by rw [fillFrom, fillFrom, pairCount_succ_of_ne _ (Ne.symm hne)]⟩
  refine .ok_bind (writeFtab_of_lt hlt) (.of_ok (writeZptr_apply ?_ _) ⟨hset.setZptr hplace _, ?_⟩)
  · have hpar : u.par = s.par := by rw [hu.frame]
    change _ < capMax u.par
    rw [hpar]
    exact hplace.trans_le hn
  · exact PlacedFrom.set (t := { u with ftab := _ }) hplaced hu.zptr_wf hi hval

end Sys2Proof.Machine
end

/-! PROOFS. The family `44_block_sorter.md`, `bwt.bucket_sort` (R228) and SORT (R220): buckets stand in the order of
their leading pairs, and `bwt.qsort` puts each in order. -/
section
namespace Sys2Proof.Machine

variable {s t u v : State}

/-! ## After the bucket pass -/

/-- What the bucket pass leaves (R228, R43): every rotation in its place, FTAB at the bucket starts. -/
structure BucketsFilled (s t : State) : Prop where
  filling : Filling s (pairsBelow (pairAt s.block s.n.toNat) s.n.toNat) (numBuckets + 1) t
  placed : PlacedFrom (pairAt s.block s.n.toNat) s.n.toNat 0 t

theorem bucketFillOp_completes (hn : s.n.toNat ≤ capMax s.par) (hz : arrWf s.zptr = true)
    (hf : arrWf s.ftab = true) : Completes s bucketFillOp fun _ => BucketsFilled s := by
  set pair := pairAt s.block s.n.toNat
  have hbelow : pairsBelow pair s.n.toNat numBuckets = s.n.toNat :=
    pairsBelow_of_forall_lt pair fun m => pairAt_lt ..
  have hnone : pairCount pair numBuckets s.n.toNat = 0 := pairCount_eq_zero pair fun m => pairAt_lt ..
  have hfull : fillFrom pair s.n.toNat 0 = pairsBelow pair s.n.toNat := by
    funext j
    rw [fillFrom, pairCount, Nat.count_zero, Nat.add_zero]
  refine .get (.bind (Filling.clear_completes hz hf) fun _ t ht => .bind (ht.count_completes hn)
    fun _ t ht => .bind ht.sum_completes fun _ t ht => ?_)
  refine .bind (ht.writeFtab_completes (j := numBuckets) (g := fillFrom pair s.n.toNat s.n.toNat)
    (m' := numBuckets + 1) (Nat.lt_succ_self _) ?_ fun j hj hne => ⟨hj, ?_⟩) fun _ t ht => ?_
  · rw [fillFrom, hbelow, hnone, Nat.add_zero, BitVec.ofNat_toNat, BitVec.setWidth_eq]
  · rw [fillFrom, partialEnds, if_pos (by omega), pairsBelow_succ]
  · exact .mono (ht.place_completes hn) fun _ u ⟨hu, hplaced⟩ => ⟨hfull ▸ hu, hplaced⟩

theorem zptrSlice_zero (t : State) (n : Nat) : zptrSlice t 0 n = (List.range n).map (zptrAt t) := by
  rw [zptrSlice, Nat.sub_zero]
  exact List.map_congr_left fun k _ => by rw [Nat.zero_add]

namespace BucketsFilled

theorem n_eq (h : BucketsFilled s t) : t.n = s.n := by rw [h.filling.frame]

theorem block_eq (h : BucketsFilled s t) : t.block = s.block := by rw [h.filling.frame]

theorem par_eq (h : BucketsFilled s t) : t.par = s.par := by rw [h.filling.frame]

theorem rotLess_iff (h : BucketsFilled s t) (a b : Nat) : rotLess t a b ↔ rotLess s a b :=
  rotLess_congr h.n_eq h.block_eq a b

/-- ZPTR holds every start position once. -/
theorem slice_perm (h : BucketsFilled s t) : (zptrSlice t 0 s.n.toNat).Perm (List.range s.n.toNat) := by
  have hmap := (placeOf_perm (pairAt s.block s.n.toNat) s.n.toNat).symm.map (zptrAt t)
  rw [List.map_map] at hmap
  have hid : (List.range s.n.toNat).map (zptrAt t ∘ placeOf (pairAt s.block s.n.toNat) s.n.toNat) =
      List.range s.n.toNat :=
    (List.map_congr_left fun m hm => h.placed m (Nat.zero_le _) (List.mem_range.1 hm)).trans (List.map_id _)
  rw [hid] at hmap
  rwa [zptrSlice_zero]

theorem zptr_lt (h : BucketsFilled s t) {k : Nat} (hk : k < s.n.toNat) : zptrAt t k < s.n.toNat := by
  obtain ⟨m, hm, rfl⟩ := exists_placeOf (pair := pairAt s.block s.n.toNat) hk
  rw [h.placed m (Nat.zero_le _) hm]
  exact hm

end BucketsFilled

/-- Every bucket holds rotations with its leading pair (R228). -/
def PairsInBuckets (s t : State) : Prop :=
  ∀ b k, bucketStart s b ≤ k → k < bucketStart s (b + 1) → leadingPair s (zptrAt t k) = b

theorem bucketStart_le (s : State) (j : Nat) : bucketStart s j ≤ s.n.toNat := by
  rw [← pairsBelow_eq_bucketStart]
  exact pairsBelow_le ..

theorem bucketStart_mono (s : State) {i j : Nat} (h : i ≤ j) : bucketStart s i ≤ bucketStart s j := by
  rw [← pairsBelow_eq_bucketStart, ← pairsBelow_eq_bucketStart]
  exact pairsBelow_mono h

/-- Every place of the block lies in a bucket. -/
theorem exists_bucketStart {k : Nat} (hk : k < s.n.toNat) :
    ∃ b, b < numBuckets ∧ bucketStart s b ≤ k ∧ k < bucketStart s (b + 1) := by
  simp only [← pairsBelow_eq_bucketStart]
  refine exists_bucket _ ?_
  rwa [pairsBelow_of_forall_lt _ fun m => pairAt_lt ..]

namespace BucketsFilled

theorem pairsInBuckets (h : BucketsFilled s t) : PairsInBuckets s t := by
  intro b k hk1 hk2
  have hk : k < s.n.toNat := hk2.trans_le (bucketStart_le ..)
  obtain ⟨m, hm, rfl⟩ := exists_placeOf (pair := pairAt s.block s.n.toNat) hk
  rw [h.placed m (Nat.zero_le _) hm, leadingPair_eq_pairAt hm]
  rw [← pairsBelow_eq_bucketStart] at hk1 hk2
  exact bucket_unique (placeOf_bounds hm).1 (placeOf_bounds hm).2 hk1 hk2

theorem ftab_toNat (h : BucketsFilled s t) {j : Nat} (hj : j < numBuckets + 1) :
    (arrGet t.ftab j).toNat = bucketStart s j := by
  have hle := bucketStart_le s j
  have hlt := s.n.isLt
  rw [h.filling.counts j hj, pairsBelow_eq_bucketStart, BitVec.toNat_ofNat, Nat.mod_eq_of_lt (by omega)]

theorem sortReady (h : BucketsFilled s t) (hp : padded s) (hn : s.n.toNat ≤ capMax s.par) :
    SortReady 0 s.n.toNat t where
  padded := padded_congr h.n_eq h.block_eq hp
  n_le := by rw [h.n_eq, h.par_eq]; exact hn
  hi_le := by rw [h.par_eq]; exact hn
  wf := h.filling.zptr_wf
  starts := fun k _ hk => by
    rw [h.n_eq]
    exact h.zptr_lt hk

end BucketsFilled

/-! ## The last loop of R228 -/

/-- A bucket of two members at least is sorted; a smaller one is in order as it stands. -/
theorem sortBucket_completes {j : Nat} (hj : j < numBuckets) (hq : t.qstack = [])
    (hready : SortReady (arrGet t.ftab j).toNat (arrGet t.ftab (j + 1)).toNat t) :
    Completes t (sortBucket j) fun _ u =>
      Rearranges (arrGet t.ftab j).toNat (arrGet t.ftab (j + 1)).toNat t u ∧
        Ordered t (arrGet t.ftab j).toNat (arrGet t.ftab (j + 1)).toNat u := by
  refine .ok_bind (readFtab_of_lt (by omega)) (.ok_bind (readFtab_of_lt (by omega)) (.ite (fun hlt => ?_)
    fun hge => .pure ⟨.refl hready.wf, fun x y _ _ _ => by omega⟩))
  have hlast : (arrGet t.ftab (j + 1) - 1#32).toNat + 1 = (arrGet t.ftab (j + 1)).toNat := by
    rw [BitVec.toNat_sub_of_le (BitVec.le_def.2 (by simp; omega))]
    simp
    omega
  have hsort := qsortOp_completes (lo := arrGet t.ftab j) (hi := arrGet t.ftab (j + 1) - 1#32)
    (by rwa [hlast]) (by omega) hq
  rwa [hlast] at hsort

/-- The buckets below `j` in order: only places within buckets were exchanged. -/
structure SortedTo (s t : State) (j : Nat) (u : State) : Prop where
  moved : Rearranges 0 s.n.toNat t u
  pairs : PairsInBuckets s u
  ordered : ∀ b, b < j → Ordered s (bucketStart s b) (bucketStart s (b + 1)) u

/-- The next bucket sorted. -/
theorem SortedTo.succ {j : Nat} (h : SortedTo s t j u)
    (hr : Rearranges (bucketStart s j) (bucketStart s (j + 1)) u v)
    (ho : Ordered s (bucketStart s j) (bucketStart s (j + 1)) v) : SortedTo s t (j + 1) v where
  moved := h.moved.trans (hr.mono (Nat.zero_le _) (bucketStart_le ..))
  pairs := fun b k h1 h2 => by
    obtain hlt | rfl | hlt := Nat.lt_trichotomy b j
    · rw [hr.outside (.inl (h2.trans_le (bucketStart_mono s hlt)))]
      exact h.pairs b k h1 h2
    · exact hr.moved.forall_mem (P := (leadingPair s · = b)) (h.pairs b) k h1 h2
    · rw [hr.outside (.inr ((bucketStart_mono s hlt).trans h1))]
      exact h.pairs b k h1 h2
  ordered := fun b hb => by
    obtain hlt | rfl := Nat.lt_succ_iff_lt_or_eq.1 hb
    · exact (h.ordered b hlt).rearranged hr (.inl (bucketStart_mono s hlt))
    · exact ho

/-- Buckets in order stand in the order of their leading pairs. -/
theorem SortedTo.ordered_all (h : SortedTo s t numBuckets u) : Ordered s 0 s.n.toNat u := by
  intro x y _ hxy hy
  obtain ⟨b, hb, hb1, hb2⟩ := exists_bucketStart (hxy.trans hy)
  obtain ⟨c, hc, hc1, hc2⟩ := exists_bucketStart hy
  obtain hlt | rfl | hlt := Nat.lt_trichotomy b c
  · refine (rotLess_iff.1 (rotLess_of_leadingPair_lt (by omega) ?_)).le
    rwa [h.pairs b x hb1 hb2, h.pairs c y hc1 hc2]
  · exact h.ordered b hb x y hb1 hxy hc2
  · have := bucketStart_mono s (show c + 1 ≤ b from hlt)
    omega

theorem sortBuckets_completes (h : BucketsFilled s t) (hp : padded s) (hn : s.n.toNat ≤ capMax s.par)
    (hq : s.qstack = []) :
    Completes t (loopUp sortBucket 0 numBuckets) fun _ => SortedTo s t numBuckets := by
  have hready := h.sortReady hp hn
  refine .mono (.loopUp (SortedTo s t) ⟨.refl h.filling.zptr_wf, h.pairsInBuckets, nofun⟩
    fun j u _ hj hu => ?_) fun _ u hu => ?_
  · have hj' : j < numBuckets := by omega
    have hftab : u.ftab = t.ftab := by rw [hu.moved.frame]
    have hqu : u.qstack = [] := by rw [hu.moved.frame, h.filling.frame, hq]
    have hlo : (arrGet u.ftab j).toNat = bucketStart s j := by
      rw [hftab, h.ftab_toNat (by omega)]
    have hhi : (arrGet u.ftab (j + 1)).toNat = bucketStart s (j + 1) := by
      rw [hftab, h.ftab_toNat (by omega)]
    have hbucket := sortBucket_completes hj' hqu <| by
      rw [hlo, hhi]
      exact (hready.rearranged hu.moved le_rfl le_rfl).mono (Nat.zero_le _) (bucketStart_le ..)
    rw [hlo, hhi] at hbucket
    refine .mono hbucket fun _ v ⟨hr, ho⟩ => hu.succ hr ?_
    simp only [Ordered, ← not_rotLess_iff, hu.moved.rotLess_iff, h.rotLess_iff] at ho ⊢
    exact ho
  · rwa [Nat.zero_add] at hu

/-! ## `bwt.bucket_sort` -/

/-- What `bwt.bucket_sort` leaves. -/
structure BucketSorted (s t : State) : Prop where
  frame : t = { s with block := t.block, zptr := t.zptr, ftab := t.ftab }
  sorted : sortedBlock t
  padded : padded t
  block : ∀ i, i < s.n.toNat ∨ s.n.toNat + 16 ≤ i →
    arrGet (w := 8) t.block i = arrGet (w := 8) s.block i
  rest : ∀ k, s.n.toNat ≤ k → zptrAt t k = zptrAt s k
  ftab : ∀ j, j ≤ 65536 → (arrGet t.ftab j).toNat = bucketStart s j

theorem bucketStart_congr (hn : t.n = s.n)
    (hblock : ∀ i, i < s.n.toNat → arrGet (w := 8) t.block i = arrGet (w := 8) s.block i)
    (hpos : 0 < s.n.toNat) (j : Nat) : bucketStart t j = bucketStart s j := by
  have hpair : leadingPair t = leadingPair s := funext fun i => by
    simp only [leadingPair, rotByte_congr hn hblock hpos]
  rw [bucketStart, bucketStart, hpair, hn]

theorem bucketSortOp_completes (ha : arraysOk s) (hq : s.qstack = []) (hpos : 1 ≤ s.n.toNat)
    (hn : s.n.toNat ≤ capMax s.par) : Completes s bucketSortOp fun _ => BucketSorted s := by
  obtain ⟨hblock, hzptr, -, -, hftab, -⟩ := ha
  refine .bind (buildPadOp_completes hblock hpos hn) fun _ p hp => ?_
  have hpn : p.n = s.n := by rw [hp.frame]
  have hppar : p.par = s.par := by rw [hp.frame]
  have hpz : p.zptr = s.zptr := by rw [hp.frame]
  have hpn' : p.n.toNat ≤ capMax p.par := by rw [hpn, hppar]; exact hn
  refine .bind (bucketFillOp_completes hpn' (by rwa [hpz]) (by rw [hp.frame]; exact hftab)) fun _ t ht => ?_
  refine .mono (sortBuckets_completes ht (hp.padded hpos) hpn' (by rw [hp.frame]; exact hq)) fun _ u hu => ?_
  have hr := hu.moved
  have hbase : ∀ a b, rotLess u a b ↔ rotLess p a b := fun a b =>
    (hr.rotLess_iff a b).trans (ht.rotLess_iff a b)
  have hperm := hr.slice_perm.trans ht.slice_perm
  refine ⟨?_, ⟨?_, ?_⟩, ?_, fun i hi => ?_, fun k hk => ?_, fun j hj => ?_⟩
  · rw [hr.frame, ht.filling.frame, hp.frame]
  · rw [hr.n_eq, ht.n_eq]
    exact hperm
  · rw [hr.n_eq, ht.n_eq]
    exact hu.ordered_all.ascends hbase (hperm.nodup_iff.2 List.nodup_range)
  · exact padded_congr (hr.n_eq.trans ht.n_eq) (hr.block_eq.trans ht.block_eq) (hp.padded hpos)
  · rw [hr.block_eq, ht.block_eq, hp.block, if_neg (by simp only [wrapPad]; omega)]
  · rw [hr.outside (.inr (by rwa [hpn])), ht.filling.rest k (by rwa [hpn]), zptrAt, hpz, zptrAt]
  · have hsame : u.ftab = t.ftab := by rw [hr.frame]
    rw [hsame, ht.ftab_toNat (Nat.lt_succ_of_le hj),
      bucketStart_congr hpn (fun i hi => hp.block_below hi) hpos]

theorem exec_bwtBucketSort (s : State) : exec .bwtBucketSort s = perform bucketSortOp s := rfl

/-- Settles O34: the counting sort gives every bucket its places, and each is sorted within them. -/
theorem bucketSortMeetsContract : Obligations.BucketSortMeetsContract := by
  intro s _ ha hq hlarge hn
  obtain ⟨⟨⟩, t, hop, ht⟩ := (bucketSortOp_completes ha hq (by omega) hn).perform
  exact ⟨t, (exec_bwtBucketSort s).trans hop, ht.frame, ht.sorted, ht.padded, ht.block, ht.rest, ht.ftab⟩

/-! ## `bwt.find_origptr` (R237) -/

theorem zptr_eq_zero_iff (s : State) (k : Nat) : arrGet s.zptr k = 0#32 ↔ zptrAt s k = 0 :=
  BitVec.toNat_inj.symm

theorem findOrigptrFrom_found {m : Nat} (hm : m < capMax s.par) (hat : zptrAt s m = 0) : ∀ (fuel k : Nat),
    k ≤ m → m < k + fuel → (∀ j, k ≤ j → j < m → zptrAt s j ≠ 0) →
    findOrigptrFrom k fuel s = .ok () { s with origptr := BitVec.ofNat 32 m }
  | 0, _, hk, hfuel, _ => by omega
  | fuel + 1, k, hk, hfuel, hbefore => by
    rw [findOrigptrFrom, seq_bind_of_ok (readZptr_of_lt (hk.trans_lt hm)), seq_ite]
    obtain rfl | hlt := Nat.eq_or_lt_of_le hk
    · rw [if_pos ((zptr_eq_zero_iff s k).2 hat), seq_modify]
    · rw [if_neg (mt (zptr_eq_zero_iff s k).1 (hbefore k le_rfl hlt))]
      exact findOrigptrFrom_found hm hat fuel (k + 1) hlt (by omega) fun j h1 h2 => hbefore j (by omega) h2

theorem findOrigptrFrom_missing : ∀ (fuel k : Nat), k + fuel ≤ capMax s.par →
    (∀ j, k ≤ j → j < k + fuel → zptrAt s j ≠ 0) →
    findOrigptrFrom k fuel s = .error (.raise .origptrNotFound) s
  | 0, _, _, _ => rfl
  | fuel + 1, k, hcap, hnone => by
    rw [findOrigptrFrom, seq_bind_of_ok (readZptr_of_lt (by omega)), seq_ite,
      if_neg (mt (zptr_eq_zero_iff s k).1 (hnone k le_rfl (by omega)))]
    exact findOrigptrFrom_missing fuel (k + 1) (by omega) fun j h1 h2 => hnone j (by omega) (by omega)

/-- The first place of rotation 0 becomes ORIGPTR. -/
theorem findOrigptrOp_found (hn : s.n.toNat ≤ capMax s.par) {k : Nat} (hk : k < s.n.toNat)
    (hat : zptrAt s k = 0) (hbefore : ∀ j, j < k → zptrAt s j ≠ 0) :
    findOrigptrOp s = .ok () { s with origptr := BitVec.ofNat 32 k } := by
  rw [findOrigptrOp, seq_bind_of_ok (seq_get _)]
  exact findOrigptrFrom_found (by omega) hat _ 0 (Nat.zero_le _) (by omega) fun j _ => hbefore j

theorem findOrigptrOp_missing (hn : s.n.toNat ≤ capMax s.par) (hnone : ∀ k, k < s.n.toNat → zptrAt s k ≠ 0) :
    findOrigptrOp s = .error (.raise .origptrNotFound) s := by
  rw [findOrigptrOp, seq_bind_of_ok (seq_get _)]
  exact findOrigptrFrom_missing _ 0 (by omega) fun j _ hj => hnone j (by omega)

theorem exec_bwtFindOrigptr (s : State) : exec .bwtFindOrigptr s = perform findOrigptrOp s := rfl

/-- Settles O41: the search goes up from place 0 and stops at the first match. -/
theorem findOrigptrFindsRotationZero : Obligations.FindOrigptrFindsRotationZero := by
  refine fun s hn => ⟨fun k hk hat hbefore => ?_, fun hnone => ?_⟩
  · exact (exec_bwtFindOrigptr s).trans (perform_of_ok (findOrigptrOp_found hn hk hat hbefore))
  · exact (exec_bwtFindOrigptr s).trans (perform_faulted (findOrigptrOp_missing hn hnone))

/-! ## SORT (R220, R304) -/

/-- What SORT leaves of a block that is not empty. -/
structure SortDone (s t : State) : Prop where
  frame : t = { s with block := t.block, zptr := t.zptr, ftab := t.ftab, origptr := t.origptr }
  sorted : sortedBlock t
  origptr_lt : t.origptr.toNat < s.n.toNat
  origptr : zptrAt t t.origptr.toNat = 0
  block : ∀ i, i < s.n.toNat → arrGet (w := 8) t.block i = arrGet (w := 8) s.block i
  small : s.n.toNat ≤ 1024 → t.block = s.block ∧ t.ftab = s.ftab

/-- A sorted block holds rotation 0, at one place (R221). -/
theorem sortedBlock.exists_zero (h : sortedBlock t) (hpos : 1 ≤ t.n.toNat) :
    ∃ k, k < t.n.toNat ∧ zptrAt t k = 0 ∧ ∀ j, j < k → zptrAt t j ≠ 0 := by
  obtain ⟨hperm, -⟩ := h
  obtain ⟨k, hk, hat⟩ := List.mem_map.1 (hperm.mem_iff.2 (List.mem_range.2 hpos))
  rw [List.mem_range, Nat.sub_zero] at hk
  rw [Nat.zero_add] at hat
  have hnodup := hperm.nodup_iff.2 List.nodup_range
  refine ⟨k, hk, hat, fun j hj => ?_⟩
  rw [← hat]
  exact zptrSlice_ne_of_nodup hnodup (Nat.zero_le _) hj hk

/-- What either path of SORT leaves to the search for rotation 0. -/
structure PathDone (s t : State) : Prop where
  frame : t = { s with block := t.block, zptr := t.zptr, ftab := t.ftab }
  sorted : sortedBlock t
  block : ∀ i, i < s.n.toNat → arrGet (w := 8) t.block i = arrGet (w := 8) s.block i
  small : s.n.toNat ≤ 1024 → t.block = s.block ∧ t.ftab = s.ftab

theorem smallPath_completes (ha : arraysOk s) (hn : s.n.toNat ≤ capMax s.par) :
    Completes s smallSortOp fun _ => PathDone s := by
  refine .mono (smallSortOp_completes hn ha.2.1) ?_
  rintro _ t ⟨hframe, -, hsorted, -⟩
  have hblock : t.block = s.block := by rw [hframe]
  have hftab : t.ftab = s.ftab := by rw [hframe]
  refine ⟨?_, hsorted, fun i _ => by rw [hblock], fun _ => ⟨hblock, hftab⟩⟩
  rw [hblock, hftab]
  exact hframe

theorem bucketPath_completes (ha : arraysOk s) (hq : s.qstack = []) (hlarge : smallSortMax < s.n.toNat)
    (hn : s.n.toNat ≤ capMax s.par) : Completes s bucketSortOp fun _ => PathDone s :=
  .mono (bucketSortOp_completes ha hq (by omega) hn) fun _ _ ht =>
    ⟨ht.frame, ht.sorted, fun i hi => ht.block i (.inl hi), fun hsmall => absurd hsmall (Nat.not_le.2 hlarge)⟩

/-- In a sorted block the search finds rotation 0 (R237). -/
theorem PathDone.find_completes (h : PathDone s t) (hpos : 1 ≤ s.n.toNat) (hn : s.n.toNat ≤ capMax s.par) :
    Completes t findOrigptrOp fun _ => SortDone s := by
  obtain ⟨hframe, hsorted, hblock, hsmall⟩ := h
  have hnt : t.n = s.n := by rw [hframe]
  have hpar : t.par = s.par := by rw [hframe]
  obtain ⟨k, hk, hat, hbefore⟩ := hsorted.exists_zero (by rwa [hnt])
  have hval : (BitVec.ofNat 32 k).toNat = k := Nat.mod_eq_of_lt (hk.trans t.n.isLt)
  refine .of_ok (findOrigptrOp_found (by rw [hnt, hpar]; exact hn) hk hat hbefore)
    ⟨congrArg (fun v => { v with origptr := BitVec.ofNat 32 k }) hframe, hsorted, ?_, ?_, hblock, hsmall⟩
  · rw [hval, ← hnt]
    exact hk
  · rw [hval]
    exact hat

theorem sortOp_completes (ha : arraysOk s) (hq : s.qstack = []) (hpos : 1 ≤ s.n.toNat)
    (hn : s.n.toNat ≤ capMax s.par) : Completes s sortOp fun _ => SortDone s :=
  .get (.ite (fun _ => .bind (smallPath_completes ha hn) fun _ _ ht => ht.find_completes hpos hn)
    fun hlarge => .bind (bucketPath_completes ha hq (Nat.lt_of_not_le hlarge) hn)
      fun _ _ ht => ht.find_completes hpos hn)

/-- An empty block has no rotation 0. -/
theorem sortOp_empty (hn : s.n.toNat = 0) : sortOp s = .error (.raise .origptrNotFound) s := by
  have hsort : smallSortOp s = .ok () s := by
    rw [smallSortOp, seq_bind_of_ok (seq_get _), hn]
    rfl
  rw [sortOp, seq_bind_of_ok (seq_get _), if_pos (by omega), seq_bind_of_ok hsort]
  exact findOrigptrOp_missing (by omega) fun k hk => by omega

theorem exec_bwtSort (s : State) : exec .bwtSort s = perform sortOp s := rfl

theorem exec_phaseSort (s : State) : exec .phaseSort s = performPhase sortOp s := rfl

theorem SortDone.blockBytes (h : SortDone s t) : blockBytes t = blockBytes s := by
  have hn : t.n = s.n := by rw [h.frame]
  rw [Machine.blockBytes, Machine.blockBytes, hn]
  exact List.map_congr_left fun i hi => h.block i (List.mem_range.1 hi)

/-- Settles O35: both paths meet the contract, and in a sorted block the search finds rotation 0. -/
theorem sortMeetsItsContract : Obligations.SortMeetsItsContract := by
  refine fun s _ ha hq hn => ⟨fun hpos => ?_, fun hzero => ?_⟩
  · obtain ⟨⟨⟩, t, hop, ht⟩ := (sortOp_completes ha hq hpos hn).ends
    exact ⟨t, (exec_bwtSort s).trans (perform_of_ok hop), (exec_phaseSort s).trans (performPhase_of_ok hop),
      ht.frame, ht.sorted, ht.origptr_lt, ht.origptr, ht.blockBytes, ht.small⟩
  · exact ⟨(exec_bwtSort s).trans (perform_faulted (sortOp_empty hzero)),
      (exec_phaseSort s).trans (performPhase_faulted (sortOp_empty hzero))⟩

end Sys2Proof.Machine
end

/-! PROOFS. The family `44_block_sorter.md`, the inverse transform (R240, R241): CC and NEXT together give each index
its place among the sorted bytes, which is a place within the block. -/
section
namespace Sys2Proof.Machine

variable {s t u c : State}

/-! ## The counts of the column (R42, R44) -/

/-- The last column as numbers: what INVERT_SORT counts. -/
def columnAt (s : State) (i : Nat) : Nat := (llAt s i).toNat

theorem columnAt_lt (s : State) (i : Nat) : columnAt s i < 256 := (llAt s i).isLt

theorem occBefore_eq (s : State) (i : Nat) : occBefore s i = pairCount (columnAt s) (columnAt s i) i := by
  rw [occBefore, length_filter_range]
  exact le_antisymm (Nat.count_mono_left fun _ _ h => congrArg BitVec.toNat h)
    (Nat.count_mono_left fun _ _ h => BitVec.eq_of_toNat_eq h)

theorem countBelow_eq (s : State) (b : Nat) : countBelow s b = pairsBelow (columnAt s) s.n.toNat b :=
  length_filter_range _ _

/-- The walk steps to the place of its index among the sorted bytes (R240). -/
theorem walkIndex_succ (s : State) (k : Nat) :
    walkIndex s (k + 1) = placeOf (columnAt s) s.n.toNat (walkIndex s k) := by
  rw [walkIndex, occBefore_eq, countBelow_eq, Nat.add_comm]
  rfl

/-- The walk never leaves the block (R241). -/
theorem walkIndex_lt (h : s.origptr.toNat < s.n.toNat) : ∀ k, walkIndex s k < s.n.toNat
  | 0 => h
  | k + 1 => by
    rw [walkIndex_succ]
    exact placeOf_lt (walkIndex_lt h k)

/-! ## CC and NEXT (R240) -/

/-- CC holds the counts `f`. -/
def CcHolds (f : Nat → Nat) (t : State) : Prop := ∀ b, b < 256 → arrGet t.cc b = BitVec.ofNat 32 (f b)

/-- INVERT_SORT of `s` while it counts: NEXT written below `i`, CC at the counts `f`. -/
structure Counting (s : State) (i : Nat) (f : Nat → Nat) (t : State) : Prop where
  frame : t = { s with nextIdx := t.nextIdx, cc := t.cc }
  next_wf : arrWf t.nextIdx = true
  cc_wf : arrWf t.cc = true
  next : ∀ k, arrGet t.nextIdx k = if k < i then BitVec.ofNat 32 (occBefore s k) else arrGet s.nextIdx k
  cc : CcHolds f t

namespace Counting

variable {i j : Nat} {f g : Nat → Nat}

/-- One element of CC written. -/
theorem setCc {b : Byte} {v : Word} (hframe : t = { s with nextIdx := t.nextIdx, cc := t.cc })
    (hnext : arrWf t.nextIdx = true) (hcc : arrWf t.cc = true)
    (hat : ∀ k, arrGet t.nextIdx k = if k < i then BitVec.ofNat 32 (occBefore s k) else arrGet s.nextIdx k)
    (hv : v = BitVec.ofNat 32 (g b.toNat))
    (hg : ∀ k, k < 256 → k ≠ b.toNat → arrGet t.cc k = BitVec.ofNat 32 (g k)) :
    Counting s i g { t with cc := arrSet t.cc b.toNat v } where
  frame := hframe.symm ▸ rfl
  next_wf := hnext
  cc_wf := arrWf_arrSet hcc _ _
  next := hat
  cc := fun k hk => by
    by_cases hkb : k = b.toNat
    · subst hkb
      exact (arrGet_arrSet_same _ _ _ hcc).trans hv
    · exact (arrGet_arrSet_other _ _ _ _ hkb hcc).trans (hg k hk hkb)

theorem toNat_ofNat_byte {v : Nat} (hv : v < 256) : (BitVec.ofNat 8 v).toNat = v := Nat.mod_eq_of_lt hv

/-- The first loop clears CC. -/
theorem clear_completes (ha : arraysOk s) :
    Completes s (loopUp (fun v => writeCc (BitVec.ofNat 8 v) 0#32) 0 256) fun _ => Counting s 0 fun _ => 0 := by
  obtain ⟨-, -, -, hnext, -, hcc⟩ := ha
  refine .mono (.loopUp (fun v t => (t = { s with nextIdx := t.nextIdx, cc := t.cc }) ∧
      t.nextIdx = s.nextIdx ∧ arrWf t.cc = true ∧ ∀ b, b < v → arrGet t.cc b = 0#32)
    ⟨rfl, rfl, hcc, nofun⟩ fun v t _ hv ⟨hframe, hsame, hwf, hzero⟩ => ?_) fun _ t ⟨hframe, hsame, hwf, hzero⟩ => ?_
  · refine .of_ok (writeCc_apply _ _ _) ⟨hframe.symm ▸ rfl, hsame, arrWf_arrSet hwf _ _, fun b hb => ?_⟩
    rw [toNat_ofNat_byte (by omega)]
    by_cases hbv : b = v
    · subst hbv
      exact arrGet_arrSet_same _ _ _ hwf
    · exact (arrGet_arrSet_other _ _ _ _ hbv hwf).trans (hzero b (by omega))
  · exact ⟨hframe, by rwa [hsame], hwf, fun k => by rw [hsame, if_neg (Nat.not_lt_zero _)], hzero⟩

/-- The second counts each byte value, NEXT taking the count before. -/
theorem count_completes (hn : s.n.toNat ≤ capMax s.par) (h : Counting s 0 (fun _ => 0) t) :
    Completes t (loopUp inverseCount 0 s.n.toNat) fun _ =>
      Counting s s.n.toNat fun b => pairCount (columnAt s) b s.n.toNat := by
  refine .mono (.loopUp (fun i => Counting s i fun b => pairCount (columnAt s) b i)
    (by simpa [pairCount] using h) fun i u _ hi hu => ?_) fun _ u hu => ?_
  · have hpar : u.par = s.par := by rw [hu.frame]
    have hll : arrGet (w := 8) u.ll i = llAt s i := by rw [hu.frame, llAt]
    have hread : readLl i u = .ok (llAt s i) u := by
      rw [readLl_of_lt (by rw [hpar]; omega), hll]
    have hcount : arrGet u.cc (llAt s i).toNat = BitVec.ofNat 32 (occBefore s i) :=
      (hu.cc _ (columnAt_lt s i)).trans (congrArg _ (occBefore_eq s i).symm)
    refine .ok_bind hread (.ok_bind (readCc_apply _ _) (.ok_bind (writeNext_of_lt (by rw [hpar]; omega))
      (.of_ok (writeCc_apply _ _ _) (.setCc (hu.frame.symm ▸ rfl) (arrWf_arrSet hu.next_wf _ _) hu.cc_wf
        (fun k => ?_) ?_ fun b hb hne => ?_))))
    · by_cases hk : k = i
      · subst hk
        rw [if_pos (Nat.lt_succ_self k)]
        exact (arrGet_arrSet_same _ _ _ hu.next_wf).trans hcount
      · refine (arrGet_arrSet_other _ _ _ _ hk hu.next_wf).trans ((hu.next k).trans ?_)
        exact if_congr (by omega) rfl rfl
    · have hsucc : pairCount (columnAt s) (llAt s i).toNat (i + 1) = occBefore s i + 1 := by
        rw [occBefore_eq]
        exact pairCount_succ_self (columnAt s) i
      rw [hcount, hsucc, BitVec.ofNat_add]
    · refine (hu.cc b hb).trans ?_
      rw [pairCount_succ_of_ne (columnAt s) (Ne.symm hne)]
  · rwa [Nat.zero_add] at hu

/-- CC while it is summed: the counts below `v` are sums. -/
def sumsBelow (s : State) (v b : Nat) : Nat :=
  if b < v then pairsBelow (columnAt s) s.n.toNat b else pairCount (columnAt s) b s.n.toNat

/-- The third sums the counts. -/
theorem sumUp_completes : ∀ (fuel v : Nat) (sum : Word) {t : State}, v + fuel = 256 →
    sum = BitVec.ofNat 32 (pairsBelow (columnAt s) s.n.toNat v) →
    Counting s s.n.toNat (sumsBelow s v) t →
    Completes t (inversePrefix v fuel sum) fun _ => Counting s s.n.toNat (sumsBelow s 256)
  | 0, v, _, t, hv, _, h => by
    obtain rfl : v = 256 := by omega
    exact .pure h
  | fuel + 1, v, sum, t, hv, hsum, h => by
    have hbyte : (BitVec.ofNat 8 v).toNat = v := toNat_ofNat_byte (by omega)
    have hread : arrGet t.cc (BitVec.ofNat 8 v).toNat =
        BitVec.ofNat 32 (pairCount (columnAt s) v s.n.toNat) := by
      rw [hbyte, h.cc v (by omega), sumsBelow, if_neg (lt_irrefl v)]
    refine .ok_bind (readCc_apply _ _) (.ok_bind (writeCc_apply _ _ _) ?_)
    refine sumUp_completes fuel (v + 1) _ (by omega) ?_ (.setCc h.frame h.next_wf h.cc_wf h.next ?_
      fun b hb hne => ?_)
    · rw [hread, hsum, pairsBelow_succ, BitVec.ofNat_add]
    · rw [hbyte, sumsBelow, if_pos (Nat.lt_succ_self v), hsum]
    · rw [hbyte] at hne
      have hiff : b < v + 1 ↔ b < v := by omega
      rw [h.cc b hb, sumsBelow, sumsBelow, if_congr hiff rfl rfl]

end Counting

/-- The tables of the walk built (R42, R44). -/
structure Tabled (s t : State) : Prop where
  frame : t = { s with nextIdx := t.nextIdx, cc := t.cc }
  next : ∀ i, i < s.n.toNat → (arrGet t.nextIdx i).toNat = occBefore s i
  next_rest : ∀ i, s.n.toNat ≤ i → arrGet t.nextIdx i = arrGet s.nextIdx i
  cc : ∀ b, b < 256 → (arrGet t.cc b).toNat = countBelow s b

theorem occBefore_le (s : State) (i : Nat) : occBefore s i ≤ i := by
  rw [occBefore_eq]
  exact Nat.count_le _

theorem Counting.tabled (h : Counting s s.n.toNat (Counting.sumsBelow s 256) t) : Tabled s t where
  frame := h.frame
  next := fun i hi => by
    have hle := occBefore_le s i
    have hlt := s.n.isLt
    rw [h.next, if_pos hi, BitVec.toNat_ofNat, Nat.mod_eq_of_lt (by omega)]
  next_rest := fun i hi => by rw [h.next, if_neg (Nat.not_lt.2 hi)]
  cc := fun b hb => by
    have hle := pairsBelow_le (columnAt s) s.n.toNat b
    have hlt := s.n.isLt
    rw [h.cc b hb, Counting.sumsBelow, if_pos hb, countBelow_eq, BitVec.toNat_ofNat,
      Nat.mod_eq_of_lt (by omega)]

/-- INVERT_SORT up to its walk. -/
def inverseTables (n : Nat) : Seq Unit := do
  loopUp (fun v => writeCc (BitVec.ofNat 8 v) 0#32) 0 256
  loopUp inverseCount 0 n
  inversePrefix 0 256 0#32

theorem inverseOp_eq (s : State) :
    inverseOp s = (inverseTables s.n.toNat >>= fun _ => inverseWalk s.n.toNat s.origptr) s := by
  rw [inverseOp, seq_bind_of_ok (seq_get _), inverseTables]
  simp only [bind_assoc]

theorem inverseTables_completes (ha : arraysOk s) (hn : s.n.toNat ≤ capMax s.par) :
    Completes s (inverseTables s.n.toNat) fun _ => Tabled s := by
  have hstart : Counting.sumsBelow s 0 = fun b => pairCount (columnAt s) b s.n.toNat :=
    funext fun b => if_neg (Nat.not_lt_zero b)
  refine .bind (Counting.clear_completes ha) fun _ t ht => .bind (ht.count_completes hn) fun _ u hu => ?_
  refine .mono (Counting.sumUp_completes 256 0 0#32 (by omega) ?_ (hstart ▸ hu)) fun _ v hv => hv.tabled
  rw [pairsBelow_zero]

/-! ## The walk (R240, R241) -/

/-- INVERT_SORT of `s`, its tables those of `c`, after `k` steps of its walk: the last `k` bytes of the block. -/
structure Walked (s c : State) (k : Nat) (t : State) : Prop where
  frame : t = { c with block := t.block }
  wf : Memory.wf t.block = true
  bytes : ∀ m, m < k → arrGet (w := 8) t.block (s.n.toNat - 1 - m) = llAt s (walkIndex s m)
  rest : ∀ i, s.n.toNat ≤ i → arrGet (w := 8) t.block i = arrGet (w := 8) s.block i

theorem Walked.succ {k : Nat} (h : Walked s c k t) (hk : k < s.n.toNat) :
    Walked s c (k + 1) { t with
      block := arrSet (w := 8) t.block (s.n.toNat - 1 - k) (llAt s (walkIndex s k)) } where
  frame := h.frame.symm ▸ rfl
  wf := arrWf_arrSet h.wf _ _
  bytes := fun m hm => by
    obtain rfl | hne := eq_or_ne m k
    · exact arrGet_arrSet_same (w := 8) _ _ _ h.wf
    · rw [arrGet_arrSet_other (w := 8) _ _ _ _ (by omega) h.wf]
      exact h.bytes m (by omega)
  rest := fun i hi => by
    rw [arrGet_arrSet_other (w := 8) _ _ _ _ (by omega) h.wf]
    exact h.rest i hi

/-- Every step of the walk writes a byte, below those written, and finds its next index within the block. -/
theorem inverseWalk_completes (hc : Tabled s c) (hn : s.n.toNat ≤ capMax s.par)
    (horig : s.origptr.toNat < s.n.toNat ∨ s.n.toNat = 0) : ∀ (j k : Nat) (i : Word) {t : State},
    k + j = s.n.toNat → i.toNat = walkIndex s k → Walked s c k t →
    Completes t (inverseWalk j i) fun _ => Walked s c s.n.toNat
  | 0, k, i, t, hk, _, h => by
    obtain rfl : k = s.n.toNat := by omega
    exact .pure h
  | j + 1, k, i, t, hk, hi, h => by
    have hindex := walkIndex_lt (horig.resolve_right (by omega))
    have hlt : i.toNat < s.n.toNat := hi ▸ hindex k
    have hnt : t.n = s.n := by rw [h.frame, hc.frame]
    have hpar : t.par = s.par := by rw [h.frame, hc.frame]
    have hnext : t.nextIdx = c.nextIdx := by rw [h.frame]
    have hcc : t.cc = c.cc := by rw [h.frame]
    have hll : readLl i.toNat t = .ok (llAt s (walkIndex s k)) t := by
      rw [readLl_of_lt (by rw [hpar]; omega), h.frame, hc.frame, llAt, hi]
    have hplace : s.n.toNat - 1 - k = j := by omega
    have hsize : j < blockSize t := by
      rw [blockSize, hpar]
      omega
    have hset := h.succ (k := k) (by omega)
    rw [hplace] at hset
    refine .get (.ite (fun hge => ?_) fun _ => ?_)
    · rw [hnt] at hge
      exact absurd hge (by rw [BitVec.le_def]; omega)
    refine .ok_bind hll (.ok_bind (writeBlock_of_lt hsize) (.ok_bind (readNext_of_lt ?_)
      (.ok_bind (readCc_apply _ _) (inverseWalk_completes hc hn horig j (k + 1) _ (by omega) ?_ hset))))
    · change i.toNat < capMax t.par
      rw [hpar]
      omega
    · change (arrGet t.nextIdx i.toNat + arrGet t.cc _).toNat = _
      have hx := hc.next i.toNat hlt
      have hy := hc.cc (llAt s (walkIndex s k)).toNat (columnAt_lt s _)
      have hsum := hindex (k + 1)
      have hstep : walkIndex s (k + 1) =
          occBefore s (walkIndex s k) + countBelow s (llAt s (walkIndex s k)).toNat := rfl
      have hbound := s.n.isLt
      rw [hi] at hx
      rw [hnext, hcc, BitVec.toNat_add, hi, hx, hy, ← hstep, Nat.mod_eq_of_lt (by omega)]

/-- A start index outside the block is found before a byte is written (R241). -/
theorem inverseWalk_raises {j : Nat} {i : Word} (h : t.n ≤ i) :
    inverseWalk (j + 1) i t = .error (.raise .badOrigptr) t := by
  rw [inverseWalk, seq_bind_of_ok (seq_get _), if_pos h]
  rfl

/-- INVERT_SORT from a start index within the block (R240). -/
theorem inverseOp_completes (ha : arraysOk s) (hn : s.n.toNat ≤ capMax s.par)
    (horig : s.origptr.toNat < s.n.toNat ∨ s.n.toNat = 0) :
    Completes s inverseOp fun _ t => ∃ c, Tabled s c ∧ Walked s c s.n.toNat t := by
  obtain ⟨⟨⟩, t, hop, c, hc, ht⟩ : Completes s (inverseTables s.n.toNat >>= fun _ =>
      inverseWalk s.n.toNat s.origptr) fun _ t => ∃ c, Tabled s c ∧ Walked s c s.n.toNat t := by
    refine .bind (inverseTables_completes ha hn) fun _ c hc => ?_
    have hblock : c.block = s.block := by rw [hc.frame]
    refine .mono (inverseWalk_completes hc hn horig _ 0 _ (Nat.zero_add _) rfl
      ⟨rfl, by rw [hblock]; exact ha.1, nofun, fun i _ => by rw [hblock]⟩) fun _ t ht => ⟨c, hc, ht⟩
  exact .of_ok ((inverseOp_eq s).trans hop) ⟨c, hc, ht⟩

/-- INVERT_SORT from a start index outside a block (R241). -/
theorem inverseOp_raises (ha : arraysOk s) (hn : s.n.toNat ≤ capMax s.par) (hpos : 1 ≤ s.n.toNat)
    (hout : s.n.toNat ≤ s.origptr.toNat) :
    ∃ c, Tabled s c ∧ inverseOp s = .error (.raise .badOrigptr) c := by
  obtain ⟨⟨⟩, c, hop, hc⟩ := (inverseTables_completes ha hn).ends
  have hnc : c.n = s.n := by rw [hc.frame]
  obtain ⟨j, hj⟩ : ∃ j, s.n.toNat = j + 1 := ⟨s.n.toNat - 1, by omega⟩
  refine ⟨c, hc, ?_⟩
  rw [inverseOp_eq, seq_bind_of_ok hop, hj]
  exact inverseWalk_raises (by rw [hnc, BitVec.le_def]; exact hout)

theorem exec_bwtInverse (s : State) : exec .bwtInverse s = perform inverseOp s := rfl

theorem exec_phaseInvertSort (s : State) : exec .phaseInvertSort s = performPhase inverseOp s := rfl

/-- Settles O42: the tables are the counts, and the walk follows them within the block, or does not start. -/
theorem inverseWalksTheColumn : Obligations.InverseWalksTheColumn := by
  intro s _ ha hn
  by_cases horig : s.origptr.toNat < s.n.toNat ∨ s.n.toNat = 0
  · obtain ⟨⟨⟩, t, hop, c, hc, ht⟩ := (inverseOp_completes ha hn horig).ends
    have hnext : t.nextIdx = c.nextIdx := by rw [ht.frame]
    have hcc : t.cc = c.cc := by rw [ht.frame]
    refine ⟨t, ?_, by rw [hnext]; exact hc.next, by rw [hnext]; exact hc.next_rest, by rw [hcc]; exact hc.cc,
      fun _ => ⟨(exec_bwtInverse s).trans (perform_of_ok hop),
        (exec_phaseInvertSort s).trans (performPhase_of_ok hop), ht.bytes, ht.rest⟩, fun h1 h2 => by omega⟩
    rw [hnext, hcc]
    exact ht.frame.trans (congrArg (fun v => { v with block := t.block }) hc.frame)
  · obtain ⟨c, hc, hop⟩ := inverseOp_raises ha hn (by omega) (by omega)
    have hblock : c.block = s.block := by rw [hc.frame]
    refine ⟨c, ?_, hc.next, hc.next_rest, hc.cc, fun h => absurd h horig, fun _ _ => ⟨hblock,
      (exec_bwtInverse s).trans (perform_faulted hop), (exec_phaseInvertSort s).trans (performPhase_faulted hop)⟩⟩
    rw [hblock]
    exact hc.frame

end Sys2Proof.Machine
end

/-! PROOFS. The family `44_block_sorter.md`, the inverse law (R242 (a)). The place of row `i` among the sorted bytes
of the last column is the row of the rotation that starts one byte earlier, or of one equal to it as a string: both
ways of listing the rotations are in order, so they are the same list. -/
section
namespace Sys2Proof.Machine

variable {t : State} {a b : Nat}

/-! ## The rotation one byte earlier -/

/-- The start position before `a`, circularly (R196). -/
def rotPred (t : State) (a : Nat) : Nat := (a + t.n.toNat - 1) % t.n.toNat

theorem rotPred_lt (hpos : 0 < t.n.toNat) (a : Nat) : rotPred t a < t.n.toNat := Nat.mod_lt _ hpos

/-- Its first byte is the last byte of `rot(a)`. -/
theorem rotByte_rotPred_zero (hpos : 0 < t.n.toNat) (a : Nat) :
    rotByte t (rotPred t a) 0 = rotByte t a (t.n.toNat - 1) := by
  rw [rotByte, rotByte, rotPred, Nat.add_zero, Nat.mod_mod, Nat.add_sub_assoc hpos]

/-- The others are those of `rot(a)` before that one. -/
theorem rotByte_rotPred_succ (hpos : 0 < t.n.toNat) (a k : Nat) :
    rotByte t (rotPred t a) (k + 1) = rotByte t a k := by
  have hshift : a + t.n.toNat - 1 + (k + 1) = a + k + t.n.toNat := by omega
  rw [rotByte, rotByte, rotPred, Nat.mod_add_mod, hshift, Nat.add_mod_right]

/-- Rotations that agree in their last byte agree one byte further when they start one byte earlier. -/
theorem Agree.rotPred {k : Nat} (h : Agree t a b k) (hpos : 0 < t.n.toNat)
    (hlast : rotByte t a (t.n.toNat - 1) = rotByte t b (t.n.toNat - 1)) :
    Agree t (rotPred t a) (rotPred t b) (k + 1)
  | 0, _ => by rw [rotByte_rotPred_zero hpos, rotByte_rotPred_zero hpos, hlast]
  | j + 1, hj => by
    rw [rotByte_rotPred_succ hpos, rotByte_rotPred_succ hpos]
    exact h j (Nat.lt_of_succ_lt_succ hj)

theorem rotString_rotPred_congr (hpos : 0 < t.n.toNat) (h : rotString t a = rotString t b) :
    rotString t (rotPred t a) = rotString t (rotPred t b) := by
  have hagree := rotString_eq_iff.1 h
  have hpred := Agree.rotPred hagree hpos (hagree _ (by omega))
  exact rotString_eq_iff.2 fun k hk => hpred k (Nat.lt_succ_of_lt hk)

/-- Among rotations with one last byte, starting one byte earlier keeps the order. -/
theorem rotString_rotPred_mono (hpos : 0 < t.n.toNat)
    (hlast : rotByte t a (t.n.toNat - 1) = rotByte t b (t.n.toNat - 1))
    (h : rotString t a ≤ rotString t b) : rotString t (rotPred t a) ≤ rotString t (rotPred t b) := by
  obtain heq | hlt := h.eq_or_lt
  · exact (rotString_rotPred_congr hpos heq).le
  · obtain ⟨k, -, hagree, hbyte⟩ := rotString_lt_iff.1 hlt
    have hpred : Agree t (rotPred t a) (rotPred t b) (k + 1) := Agree.rotPred hagree hpos hlast
    refine (hpred.rotString_lt hpos ?_).le
    rwa [rotByte_rotPred_succ hpos, rotByte_rotPred_succ hpos]

/-- A lesser last byte makes the rotation that starts with it the lesser. -/
theorem rotString_rotPred_lt (hpos : 0 < t.n.toNat)
    (hlast : rotByte t a (t.n.toNat - 1) < rotByte t b (t.n.toNat - 1)) :
    rotString t (rotPred t a) < rotString t (rotPred t b) := by
  refine Agree.rotString_lt (k := 0) nofun hpos ?_
  rwa [rotByte_rotPred_zero hpos, rotByte_rotPred_zero hpos]

theorem rotPred_inj (ha : a < t.n.toNat) (hb : b < t.n.toNat)
    (h : rotPred t a = rotPred t b) : a = b := by
  have hsucc : ∀ {c}, c < t.n.toNat → (rotPred t c + 1) % t.n.toNat = c := fun {c} hc => by
    rw [rotPred, Nat.mod_add_mod, Nat.sub_add_cancel (by omega), Nat.add_mod_right, Nat.mod_eq_of_lt hc]
  rw [← hsucc ha, h, hsucc hb]

/-! ## The rows of the sorted block (R221) -/

section Rows

variable {col : Nat → Nat}

theorem sortedBlock.zptr_lt (h : sortedBlock t) {k : Nat} (hk : k < t.n.toNat) : zptrAt t k < t.n.toNat := by
  obtain ⟨hperm, -⟩ := h
  rw [zptrSlice_zero] at hperm
  exact List.mem_range.1 (hperm.mem_iff.1 (List.mem_map.2 ⟨k, List.mem_range.2 hk, rfl⟩))

/-- The rows of a sorted block do not descend as strings. -/
theorem sortedBlock.rotString_le (h : sortedBlock t) {j k : Nat} (hjk : j ≤ k) (hk : k < t.n.toNat) :
    rotString t (zptrAt t j) ≤ rotString t (zptrAt t k) := by
  obtain ⟨-, hasc⟩ := h
  obtain rfl | hlt := Nat.eq_or_lt_of_le hjk
  · exact le_rfl
  · obtain hlt | ⟨heq, -⟩ := rotLess_iff_string.1 (hasc j k (Nat.zero_le _) hlt hk)
    · exact hlt.le
    · exact heq.le

/-- A row placed before another has the lesser byte, or the same one and stands before it (R240). -/
theorem placeOf_le_cases {n i j : Nat} (hi : i < n) (hj : j < n) (h : placeOf col n i ≤ placeOf col n j) :
    col i < col j ∨ col i = col j ∧ i ≤ j := by
  obtain hlt | heq | hgt := Nat.lt_trichotomy (col i) (col j)
  · exact .inl hlt
  · refine .inr ⟨heq, ?_⟩
    by_contra hji
    have := placeOf_lt_of_lt (n := n) (Nat.lt_of_not_le hji) heq.symm
    omega
  · have hmono := pairsBelow_mono (pair := col) (n := n) (show col j + 1 ≤ col i from hgt)
    have h1 := (placeOf_bounds (pair := col) hj).2
    have h2 := (placeOf_bounds (pair := col) hi).1
    omega

variable (h : sortedBlock t) (hpos : 0 < t.n.toNat)
  (hcol : ∀ k, k < t.n.toNat → col k = (rotByte t (zptrAt t k) (t.n.toNat - 1)).toNat)
include h hpos hcol

/-- Taken in the order of their places, the rotations one byte before the rows do not descend. -/
theorem rotString_rotPred_le {i j : Nat} (hi : i < t.n.toNat) (hj : j < t.n.toNat)
    (hplace : placeOf col t.n.toNat i ≤ placeOf col t.n.toNat j) :
    rotString t (rotPred t (zptrAt t i)) ≤ rotString t (rotPred t (zptrAt t j)) := by
  have hcases := placeOf_le_cases hi hj hplace
  rw [hcol i hi, hcol j hj] at hcases
  obtain hlt | ⟨heq, hij⟩ := hcases
  · exact (rotString_rotPred_lt hpos hlt).le
  · exact rotString_rotPred_mono hpos (BitVec.eq_of_toNat_eq heq) (h.rotString_le hij hj)

/-- The row at the place of row `i` is the rotation one byte before row `i`, as a string. -/
theorem rotString_placeOf {i : Nat} (hi : i < t.n.toNat) :
    rotString t (zptrAt t (placeOf col t.n.toNat i)) = rotString t (rotPred t (zptrAt t i)) := by
  have hrow : ∀ k, ∃ m, k < t.n.toNat → m < t.n.toNat ∧ placeOf col t.n.toNat m = k := fun k => by
    by_cases hk : k < t.n.toNat
    · obtain ⟨m, hm⟩ := exists_placeOf (pair := col) hk
      exact ⟨m, fun _ => hm⟩
    · exact ⟨0, fun hk' => absurd hk' hk⟩
  choose row hrow using hrow
  have hrows : ((List.range t.n.toNat).map row).Perm (List.range t.n.toNat) :=
    map_range_perm (fun k hk => (hrow k hk).1) fun j k hj hk heq => by
      rw [← (hrow j hj).2, heq, (hrow k hk).2]
  have hstarts : ((List.range t.n.toNat).map (zptrAt t)).Perm (List.range t.n.toNat) := by
    rw [← zptrSlice_zero]
    exact h.1
  have hpreds : ((List.range t.n.toNat).map (rotPred t)).Perm (List.range t.n.toNat) :=
    map_range_perm (fun k _ => rotPred_lt hpos k) fun _ _ => rotPred_inj
  have hlists : (List.range t.n.toNat).map (fun k => rotString t (zptrAt t k)) =
      (List.range t.n.toNat).map fun k => rotString t (rotPred t (zptrAt t (row k))) := by
    refine List.Perm.eq_of_pairwise (le := (· ≤ ·)) (fun _ _ _ _ => le_antisymm) ?_ ?_ ?_
    · rw [List.pairwise_map]
      refine List.pairwise_lt_range.imp_of_mem fun _ hk hlt => ?_
      exact h.rotString_le hlt.le (List.mem_range.1 hk)
    · rw [List.pairwise_map]
      refine List.pairwise_lt_range.imp_of_mem fun hj hk hlt => ?_
      obtain ⟨hj1, hj2⟩ := hrow _ (List.mem_range.1 hj)
      obtain ⟨hk1, hk2⟩ := hrow _ (List.mem_range.1 hk)
      exact rotString_rotPred_le h hpos hcol hj1 hk1 (by rw [hj2, hk2]; exact hlt.le)
    · have hleft := hstarts.map (rotString t)
      have hright := (hrows.map (zptrAt t)).trans hstarts |>.map (rotPred t) |>.trans hpreds |>.map (rotString t)
      simp only [List.map_map] at hleft hright
      exact hleft.trans hright.symm
  have hplace := placeOf_lt (pair := col) hi
  have hat := List.map_inj_left.1 hlists _ (List.mem_range.2 hplace)
  obtain ⟨hrow1, hrow2⟩ := hrow _ hplace
  rwa [placeOf_inj hrow1 hi hrow2] at hat

end Rows

/-! ## The walk through the rows (R242) -/

theorem getElem_lastColumnOf {k : Nat} (hk : k < (lastColumnOf t).length) :
    (lastColumnOf t)[k] = rotByte t (zptrAt t k) (t.n.toNat - 1) := by
  have hn : k < t.n.toNat := by simpa [lastColumnOf] using hk
  simp only [lastColumnOf, List.getElem_map, List.getElem_range, rotByte, zptrAt]
  rw [Nat.add_sub_assoc (by omega)]

section Walk

variable {v : State} (h : sortedBlock t) (hn : v.n = t.n)
  (hcol : ∀ k, k < t.n.toNat → llAt v k = rotByte t (zptrAt t k) (t.n.toNat - 1))
  (horig : v.origptr.toNat < t.n.toNat) (hzero : zptrAt t v.origptr.toNat = 0)
include h hn hcol horig hzero

/-- After `k` steps the walk is at a row equal to the rotation that starts `k` bytes before the block's end. -/
theorem rotString_walkIndex : ∀ k, k < t.n.toNat →
    rotString t (zptrAt t (walkIndex v k)) = rotString t ((t.n.toNat - k) % t.n.toNat)
  | 0, _ => by
    rw [Nat.sub_zero, Nat.mod_self]
    exact congrArg (rotString t) hzero
  | k + 1, hk => by
    have hlt := walkIndex_lt (s := v) (by rwa [hn]) k
    rw [hn] at hlt
    have hpred : rotPred t ((t.n.toNat - k) % t.n.toNat) = (t.n.toNat - (k + 1)) % t.n.toNat := by
      rw [rotPred, Nat.add_sub_assoc (by omega), Nat.mod_add_mod]
      have hshift : t.n.toNat - k + (t.n.toNat - 1) = t.n.toNat - (k + 1) + t.n.toNat := by omega
      rw [hshift, Nat.add_mod_right]
    rw [walkIndex_succ, hn, rotString_placeOf (col := columnAt v) h (by omega)
      (fun j hj => congrArg BitVec.toNat (hcol j hj)) hlt, ← hpred]
    exact rotString_rotPred_congr (by omega) (rotString_walkIndex k (by omega))

/-- So the bytes it meets are those of the block from its end. -/
theorem llAt_walkIndex {k : Nat} (hk : k < t.n.toNat) :
    llAt v (walkIndex v k) = arrGet (w := 8) t.block (t.n.toNat - 1 - k) := by
  have hlt := walkIndex_lt (s := v) (by rwa [hn]) k
  rw [hn] at hlt
  have hlast := rotString_eq_iff.1 (rotString_walkIndex h hn hcol horig hzero k hk) (t.n.toNat - 1) (by omega)
  have hshift : t.n.toNat - k + (t.n.toNat - 1) = t.n.toNat - 1 - k + t.n.toNat := by omega
  rw [hcol _ hlt, hlast, rotByte, Nat.mod_add_mod, hshift, Nat.add_mod_right, Nat.mod_eq_of_lt (by omega)]

end Walk

/-- Settles O43: the walk of the inverse transform meets the bytes of the block from its end (R242 (a)). -/
theorem sortThenInverseRestoresTheBlock : Obligations.SortThenInverseRestoresTheBlock := by
  intro s t v _ ha hq hpos hn hsort _ hav hvn hvcap hvorig hvcol
  obtain ⟨⟨⟩, t', hop, ht⟩ := (sortOp_completes ha hq hpos hn).ends
  obtain rfl : t' = t := by
    have hnext := (exec_bwtSort s).symm.trans hsort
    rw [perform_of_ok hop] at hnext
    exact Host.Outcome.next.inj hnext
  have htn : t'.n = s.n := by rw [ht.frame]
  have horig : v.origptr.toNat < t'.n.toNat := by rw [hvorig, htn]; exact ht.origptr_lt
  have hcol : ∀ k, k < t'.n.toNat → llAt v k = rotByte t' (zptrAt t' k) (t'.n.toNat - 1) := fun k hk => by
    have hlen : k < (lastColumnOf t').length := by simpa [lastColumnOf] using hk
    rw [← getElem_lastColumnOf hlen]
    simp only [← hvcol, List.getElem_map, List.getElem_range]
  obtain ⟨⟨⟩, u, hinv, c, hc, hu⟩ := (inverseOp_completes hav hvcap (.inl (by rwa [hvn]))).ends
  have hun : u.n = s.n := by rw [hu.frame, hc.frame, hvn, htn]
  refine ⟨u, (exec_bwtInverse v).trans (perform_of_ok hinv), ?_⟩
  rw [blockBytes, blockBytes, hun]
  refine List.map_congr_left fun i hi => ?_
  rw [List.mem_range] at hi
  have hplace : v.n.toNat - 1 - (v.n.toNat - 1 - i) = i := by rw [hvn, htn]; omega
  have hbyte := hu.bytes (v.n.toNat - 1 - i) (by rw [hvn, htn]; omega)
  rw [hplace] at hbyte
  rw [hbyte, llAt_walkIndex ht.sorted hvn hcol horig (by rw [hvorig]; exact ht.origptr)
    (by rw [hvn, htn]; omega), ← hvn, hplace]
  exact ht.block i hi

end Sys2Proof.Machine
end

/-! PROOFS. The family `45_rle_spot.md`, UNRLE (O28): the scan of the block pushes what `expandUnits` reads from the
bytes before it, and faults where that finds no count. -/
section
namespace Sys2Proof.Machine

variable {s : State}

/-! ## Units read (R267, R269) -/

/-- How many equal bytes stand at the end of what was read, once `b` is read too (R267). -/
def runWith (cnt : Nat) (prev b : Byte) : Nat := if 0 < cnt ∧ b = prev then cnt + 1 else 1

/-- The bytes `xs` before what an expansion gives. -/
def emitted (xs : List Byte) (e : List Byte × Bool) : List Byte × Bool := (xs ++ e.1, e.2)

theorem emitted_emitted (xs ys : List Byte) (e : List Byte × Bool) :
    emitted xs (emitted ys e) = emitted (xs ++ ys) e := by
  simp only [emitted, List.append_assoc]

theorem expandUnits_nil (cnt : Nat) (prev : Byte) : expandUnits cnt prev [] = ([], true) := rfl

/-- A byte that completes no run of four. -/
theorem expandUnits_byte {cnt : Nat} {prev b : Byte} (h : runWith cnt prev b ≠ 4) (rest : List Byte) :
    expandUnits cnt prev (b :: rest) = emitted [b] (expandUnits (runWith cnt prev b) b rest) := by
  rw [expandUnits.eq_def]
  exact if_neg h

/-- The fourth of a run, and its count. -/
theorem expandUnits_count {cnt : Nat} {prev b : Byte} (h : runWith cnt prev b = 4) (k : Byte)
    (rest : List Byte) :
    expandUnits cnt prev (b :: k :: rest) =
      emitted (b :: List.replicate k.toNat b) (expandUnits 0 b rest) := by
  rw [runWith] at h
  rw [expandUnits, if_pos h]
  rfl

/-- The fourth of a run where no count follows (R269). -/
theorem expandUnits_noCount {cnt : Nat} {prev b : Byte} (h : runWith cnt prev b = 4) :
    expandUnits cnt prev [b] = ([b], false) := by
  rw [runWith] at h
  rw [expandUnits, if_pos h]

/-! ## A part of the block -/

/-- `BLOCK[i..m)`. -/
def blockFrom (s : State) (i m : Nat) : List Byte :=
  (List.range' i (m - i)).map fun j => arrGet (w := 8) s.block j

theorem blockFrom_of_le {i m : Nat} (h : m ≤ i) : blockFrom s i m = [] := by
  rw [blockFrom, Nat.sub_eq_zero_of_le h]
  rfl

theorem blockFrom_of_lt {i m : Nat} (h : i < m) :
    blockFrom s i m = arrGet (w := 8) s.block i :: blockFrom s (i + 1) m := by
  obtain ⟨k, hk⟩ := Nat.exists_eq_add_of_lt h
  rw [blockFrom, blockFrom, show m - i = k + 1 by omega, show m - (i + 1) = k by omega, List.range'_succ]
  rfl

theorem blockBytes_eq (s : State) : blockBytes s = blockFrom s 0 s.n.toNat := by
  rw [blockBytes, blockFrom, List.range_eq_range', Nat.sub_zero]

theorem unitBytesOf_notFinal (h : s.finalBlock = false) : unitBytesOf s = blockFrom s 0 s.n.toNat := by
  rw [unitBytesOf, if_neg (by simp [h]), blockBytes_eq]

/-- The sentinel's place is left out (R106). -/
theorem unitBytesOf_final (h : s.finalBlock = true) :
    unitBytesOf s = blockFrom s 0 (s.n.toNat - 1) := by
  rw [unitBytesOf, if_pos h, blockBytes, List.dropLast_eq_take, List.length_map, List.length_range,
    ← List.map_take, List.take_range, min_eq_left (Nat.sub_le ..), blockFrom, List.range_eq_range',
    Nat.sub_zero]

/-! ## Bytes pushed -/

/-- `s` with `xs` on BYTE_OUT and in CRC (R67). -/
def bytesPushed (xs : List Byte) (s : State) : State :=
  { s with byteOut := s.byteOut ++ xs, crc := crcOver s.crc xs }

theorem bytesPushed_append (xs ys : List Byte) (s : State) :
    bytesPushed ys (bytesPushed xs s) = bytesPushed (xs ++ ys) s := by
  simp only [bytesPushed, crcOver_append, List.append_assoc]

theorem bytesPushed_nil (s : State) : bytesPushed [] s = s := by
  simp [bytesPushed, crcOver]

/-- How the scan ends with the expansion `e`: its bytes are pushed, and a missing count faults (R269). -/
def unloadEnd (e : List Byte × Bool) (s : State) : EStateM.Result Stop State Unit :=
  if e.2 then .ok () (bytesPushed e.1 s) else .error (.raise .badRle1) (bytesPushed e.1 s)

theorem unloadEnd_emitted (xs : List Byte) (e : List Byte × Bool) (s : State) :
    unloadEnd e (bytesPushed xs s) = unloadEnd (emitted xs e) s := by
  rw [unloadEnd, unloadEnd, bytesPushed_append]
  rfl

/-! ## The scan (R267) -/

/-- A check that finds nothing wrong goes on. -/
theorem seq_check_of_not {β : Type} {c : Prop} [Decidable c] (h : ¬ c) (e : FaultCode) (f : Unit → Seq β)
    (s : State) : (if c then (raise e : Seq Unit) >>= f else f ()) s = f () s := by
  rw [if_neg h]

/-- A check that finds something wrong stops there. -/
theorem seq_check_of {β : Type} {c : Prop} [Decidable c] (h : c) (e : FaultCode) (f : Unit → Seq β)
    (s : State) : (if c then (raise e : Seq Unit) >>= f else f ()) s = .error (.raise e) s := by
  rw [if_pos h, seq_bind, raise_apply]

/-- The scan of `BLOCK[i..m)` pushes what the units there stand for. -/
theorem unloadLoop_eq (m : Nat) : ∀ (fuel i cnt : Nat) (prev : Byte) {s : State}, m ≤ blockSize s →
    m ≤ i + fuel →
    unloadLoop m fuel i cnt prev s = unloadEnd (expandUnits cnt prev (blockFrom s i m)) s
  | 0, i, cnt, prev, s, _, hfuel => by
    rw [blockFrom_of_le (by omega), expandUnits_nil, unloadEnd, if_pos rfl, bytesPushed_nil]
    rfl
  | fuel + 1, i, cnt, prev, s, hm, hfuel => by
    rw [unloadLoop]
    by_cases hi : m ≤ i
    · rw [if_pos hi, blockFrom_of_le hi, expandUnits_nil, unloadEnd, if_pos rfl, bytesPushed_nil, seq_pure]
    rw [if_neg hi, blockFrom_of_lt (by omega), seq_bind_of_ok (readBlock_of_lt (by omega)),
      seq_bind_of_ok (pushByte_apply _ s)]
    generalize arrGet (w := 8) s.block i = b
    change (if runWith cnt prev b = 4 then _ else _ : Seq Unit) (bytesPushed [b] s) = _
    by_cases hrun : runWith cnt prev b = 4
    · rw [if_pos hrun]
      by_cases hlast : m ≤ i + 1
      · rw [blockFrom_of_le hlast, expandUnits_noCount hrun]
        exact seq_check_of hlast ..
      · rw [blockFrom_of_lt (by omega), expandUnits_count hrun]
        have hread : i + 1 < blockSize s := by omega
        refine (seq_check_of_not hlast ..).trans <|
          (seq_bind_of_ok (readBlock_of_lt (s := bytesPushed [b] s) hread) _).trans <|
          (seq_bind_of_ok (pushByte_repeat ..) _).trans <|
          (unloadLoop_eq m fuel (i + 2) 0 b (s := bytesPushed _ (bytesPushed [b] s)) hm (by omega)).trans ?_
        rw [bytesPushed_append, unloadEnd_emitted]
        rfl
    · rw [if_neg hrun, expandUnits_byte hrun, ← unloadEnd_emitted]
      exact unloadLoop_eq m fuel (i + 1) _ b hm (by omega)

/-! ## UNRLE (R267, R270, R314) -/

/-- A wrong sentinel is found before anything is pushed (R270). -/
theorem unloadOp_badSentinel (hn : s.n.toNat ≤ blockSize s) (hf : s.finalBlock = true)
    (hpos : 1 ≤ s.n.toNat) (h : arrGet (w := 8) s.block (s.n.toNat - 1) ≠ 42#8) :
    unloadOp s = .error (.raise .badSentinel) s := by
  rw [unloadOp, seq_bind_of_ok (seq_get s), if_pos hf, seq_bind_of_ok (checkIndex_of_lt hpos s),
    seq_bind_of_ok (readBlock_of_lt (by omega))]
  exact seq_check_of h ..

/-- Else the scan pushes what the block's units stand for. -/
theorem unloadOp_eq (hn : s.n.toNat ≤ blockSize s) (hpos : s.finalBlock = true → 1 ≤ s.n.toNat)
    (h : s.finalBlock = true → arrGet (w := 8) s.block (s.n.toNat - 1) = 42#8) :
    unloadOp s = unloadEnd (expandUnits 0 0#8 (unitBytesOf s)) s := by
  rw [unloadOp, seq_bind_of_ok (seq_get s)]
  cases hf : s.finalBlock with
  | false =>
    rw [if_neg (by simp), unitBytesOf_notFinal hf]
    exact unloadLoop_eq _ _ 0 0 0#8 hn (by omega)
  | true =>
    rw [if_pos rfl, seq_bind_of_ok (checkIndex_of_lt (hpos hf) s),
      seq_bind_of_ok (readBlock_of_lt (by have := hpos hf; omega)), h hf, unitBytesOf_final hf]
    refine (seq_check_of_not (not_not.2 rfl) ..).trans ?_
    exact unloadLoop_eq _ _ 0 0 0#8 (by omega) (by omega)

theorem exec_rle1Unload (s : State) : exec .rle1Unload s = perform unloadOp s := rfl

theorem exec_phaseUnrle (s : State) : exec .phaseUnrle s = performPhase unloadOp s := rfl

theorem le_blockSize {i : Nat} (h : i ≤ capMax s.par) : i ≤ blockSize s := h.trans (Nat.le_add_right ..)

/-- Settles O28: the sentinel is judged first, and the scan ends as the expansion of the units says. -/
theorem unloadExpandsTheBlock : Obligations.UnloadExpandsTheBlock := by
  intro s _ hn hpos
  refine ⟨fun hf hbad => ?_, ?_⟩
  · have hop := unloadOp_badSentinel (le_blockSize hn) hf (hpos hf) hbad
    exact ⟨(exec_rle1Unload s).trans (perform_faulted hop),
      (exec_phaseUnrle s).trans (performPhase_faulted hop)⟩
  · rintro hsentinel x ok t hx rfl
    have hop := unloadOp_eq (le_blockSize hn) hpos hsentinel
    rw [hx] at hop
    refine ⟨?_, ?_⟩ <;> rintro rfl
    · exact ⟨(exec_rle1Unload s).trans (perform_of_ok hop),
        (exec_phaseUnrle s).trans (performPhase_of_ok hop)⟩
    · exact ⟨(exec_rle1Unload s).trans (perform_faulted hop),
        (exec_phaseUnrle s).trans (performPhase_faulted hop)⟩

end Sys2Proof.Machine
end

/-! PROOFS. The family `45_rle_spot.md`, the spots (O30, O31): `spot.apply` visits the positions of R277 in order,
up to the last one below `N - 1`, and each once. -/
section
namespace Sys2Proof.Machine

variable {s t : State} {delta : SpotDelta}

/-! ## The positions (R277) -/

/-- From one position to the next is one step of SPOT_SEQ (R275). -/
theorem spotPos_succ (q : Nat) : spotPos (q + 1) = spotPos q + spotStep (spotSeq.getD (q % 10) 0) := by
  have hsteps : ∀ r, r < 10 → 79915 * ((r + 1) / 10) +
      ([7915, 7983, 8017, 7932, 8000, 8068, 8034, 7966, 8051, 7949].take ((r + 1) % 10)).sum =
      ([7915, 7983, 8017, 7932, 8000, 8068, 8034, 7966, 8051, 7949].take r).sum +
        spotStep (spotSeq.getD r 0) := by decide
  have hstep := hsteps (q % 10) (Nat.mod_lt _ (by omega))
  have hdiv : (q + 1) / 10 = q / 10 + (q % 10 + 1) / 10 := by omega
  have hmod : (q + 1) % 10 = (q % 10 + 1) % 10 := by omega
  rw [spotPos, spotPos, hdiv, hmod]
  omega

theorem spotPos_strictMono : StrictMono spotPos := by
  refine strictMono_nat_of_lt_succ fun q => ?_
  obtain ⟨hstep, -⟩ := spotStep_bounds (BitVec.ofNat 4 (q % 10))
  rw [BitVec.toNat_ofNat, Nat.mod_eq_of_lt (by omega : q % 10 < 2 ^ 4)] at hstep
  rw [spotPos_succ]
  omega

/-! ## Visits -/

/-- What the visits rest on: a block within CAPMAX, and BLOCK in its canonical form. -/
structure SpotReady (s : State) : Prop where
  params : paramsLegal s.par = true
  wf : Memory.wf s.block = true
  n_le : s.n.toNat ≤ capMax s.par

theorem SpotReady.lt_blockSize (h : SpotReady s) {i : Nat} (hi : i < s.n.toNat) : i < blockSize s :=
  hi.trans_le (le_blockSize h.n_le)

/-- The block ends far below where a word overflows (R11). -/
theorem SpotReady.n_le_max (h : SpotReady s) : s.n.toNat ≤ 900000 := by
  have hmax := maxLevel_of_paramsLegal h.params
  have hn := h.n_le
  simp only [capMax, blockUnit] at hn
  omega

/-- The first `q` positions were visited, and SPOS and SIDX stand for position `q` (R275). -/
structure SpotsVisited (delta : SpotDelta) (s : State) (q : Nat) (t : State) : Prop where
  frame : t = { s with block := t.block, spos := t.spos, sidx := t.sidx }
  wf : Memory.wf t.block = true
  spos : t.spos.toNat = spotPos q
  sidx : t.sidx.toNat = q % 10
  below : ∀ p, p < q → spotPos p + 1 < s.n.toNat
  visited : ∀ p, p < q →
    arrGet (w := 8) t.block (spotPos p) = spotByte delta (arrGet (w := 8) s.block (spotPos p))
  rest : ∀ i, (∀ p, p < q → i ≠ spotPos p) → arrGet (w := 8) t.block i = arrGet (w := 8) s.block i

/-- The state at the first test (R275). -/
theorem SpotsVisited.start (hwf : Memory.wf s.block = true) :
    SpotsVisited delta s 0 { s with spos := BitVec.ofNat 32 spotBase, sidx := 0#4 } where
  frame := rfl
  wf := hwf
  spos := rfl
  sidx := rfl
  below := nofun
  visited := nofun
  rest _ _ := rfl

/-- SIDX goes round through the ten steps (R275). -/
theorem toNat_nextSidx {i : BitVec 4} {q : Nat} (h : i.toNat = q % 10) :
    (if i = 9#4 then 0#4 else i + 1#4).toNat = (q + 1) % 10 := by
  have hall : ∀ i : BitVec 4, i.toNat < 10 →
      (if i = 9#4 then 0#4 else i + 1#4).toNat = (i.toNat + 1) % 10 := by decide
  rw [hall i (by omega), h]
  omega

/-- A visit changes the byte at its position, which none before it had (R275). -/
theorem SpotsVisited.visit {q : Nat} (h : SpotsVisited delta s q t) (hs : SpotReady s)
    (hlt : spotPos q + 1 < s.n.toNat) :
    Completes t (spotVisit delta) fun _ => SpotsVisited delta s (q + 1) := by
  have hpar : blockSize t = blockSize s := by rw [h.frame]; rfl
  have hspos : t.spos.toNat < blockSize t := by
    rw [h.spos, hpar]
    exact hs.lt_blockSize (by omega)
  have hfresh : ∀ p, p < q → spotPos q ≠ spotPos p := fun p hp => (spotPos_strictMono hp).ne'
  refine .get (.ok_bind (readBlock_of_lt hspos) (.ok_bind (writeBlock_of_lt hspos) (.of_ok rfl
    { frame := ?_, wf := arrWf_arrSet h.wf _ _, spos := ?_, sidx := toNat_nextSidx h.sidx,
      below := ?_, visited := ?_, rest := ?_ })))
  · exact congrArg (fun v : State => { v with
      block := arrSet (w := 8) t.block t.spos.toNat (spotByte delta (arrGet (w := 8) t.block t.spos.toNat))
      sidx := if t.sidx = 9#4 then 0#4 else t.sidx + 1#4
      spos := t.spos + BitVec.ofNat 32 (spotStep (spotSeq.getD t.sidx.toNat 0)) }) h.frame
  · obtain ⟨-, hstep⟩ := spotStep_bounds t.sidx
    have hsize := hs.n_le_max
    have hnext := spotPos_succ q
    rw [← h.sidx] at hnext
    simp only [BitVec.toNat_add, BitVec.toNat_ofNat, h.spos]
    omega
  · intro p hp
    obtain hp | rfl := Nat.lt_succ_iff_lt_or_eq.1 hp
    · exact h.below p hp
    · exact hlt
  · intro p hp
    simp only [h.spos]
    obtain hp | rfl := Nat.lt_succ_iff_lt_or_eq.1 hp
    · rw [arrGet_arrSet_other _ _ _ _ (hfresh p hp).symm h.wf, h.visited p hp]
    · rw [arrGet_arrSet_same _ _ _ h.wf, h.rest _ hfresh]
  · intro i hi
    simp only [h.spos]
    rw [arrGet_arrSet_other _ _ _ _ (hi q (Nat.lt_succ_self q)) h.wf]
    exact h.rest i fun p hp => hi p (Nat.lt_succ_of_lt hp)

/-- The loop goes on to the first position that is not below `N - 1`. -/
theorem SpotsVisited.loop (hs : SpotReady s) : ∀ (fuel q : Nat) {t : State},
    SpotsVisited delta s q t → s.n.toNat ≤ fuel + spotPos q →
    Completes t (spotLoop delta (fuel + 1)) fun _ u =>
      ∃ q', SpotsVisited delta s q' u ∧ s.n.toNat ≤ spotPos q' + 1
  | fuel, q, t, h, hfuel => by
    have htn : t.n = s.n := by rw [h.frame]
    refine .get (.ite (fun hlt => ?_) fun hge => .pure ⟨q, h, ?_⟩)
    · rw [h.spos, htn] at hlt
      cases fuel with
      | zero => omega
      | succ fuel =>
        have hnext := spotPos_strictMono (Nat.lt_add_one q)
        exact .bind (h.visit hs hlt) fun _ u hu => SpotsVisited.loop hs fuel (q + 1) hu (by omega)
    · rw [h.spos, htn] at hge
      omega

/-! ## `spot.apply` -/

/-- Where `spot.apply` ends: the positions below `N - 1` were visited, and SPOS is at the next one. -/
theorem spotApplyOp_completes (hs : SpotReady s) :
    Completes s (spotApplyOp delta) fun _ t =>
      ∃ q, SpotsVisited delta s q t ∧ s.n.toNat ≤ spotPos q + 1 :=
  .ok_bind rfl (.get (SpotsVisited.loop hs _ 0 (.start hs.wf) (Nat.le_add_right ..)))

/-- Every position below `N - 1` was visited by then. -/
theorem SpotsVisited.at_spot {q : Nat} (h : SpotsVisited delta s q t) (hend : s.n.toNat ≤ spotPos q + 1)
    {p : Nat} (hp : spotPos p + 1 < s.n.toNat) :
    arrGet (w := 8) t.block (spotPos p) = spotByte delta (arrGet (w := 8) s.block (spotPos p)) :=
  h.visited p (spotPos_strictMono.lt_iff_lt.1 (by omega))

theorem SpotsVisited.off_spots {q : Nat} (h : SpotsVisited delta s q t) {i : Nat}
    (hi : ∀ p, spotPos p + 1 < s.n.toNat → i ≠ spotPos p) :
    arrGet (w := 8) t.block i = arrGet (w := 8) s.block i :=
  h.rest i fun p hp => hi p (h.below p hp)

theorem exec_spotApply (delta : SpotDelta) (s : State) :
    exec (.spotApply delta) s = perform (spotApplyOp delta) s := rfl

theorem exec_phaseSpot (s : State) : exec .phaseSpot s = performPhase (spotApplyOp .plus) s := rfl

theorem exec_phaseUnspot (s : State) : exec .phaseUnspot s = performPhase (spotApplyOp .minus) s := rfl

/-- Settles O30: the loop visits the positions of R277 in order, until one is not below `N - 1`. -/
theorem spotVisitsItsPositions : Obligations.SpotVisitsItsPositions := by
  intro s delta hp ⟨hwf, _⟩ hn
  obtain ⟨⟨⟩, t, hop, q, ht, hend⟩ := (spotApplyOp_completes (delta := delta) ⟨hp, hwf, hn⟩).ends
  refine ⟨t, (exec_spotApply delta s).trans (perform_of_ok hop), ?_, ?_, ht.frame, fun p hp => ?_,
    fun i hi => ht.off_spots hi, q, ht.spos, ht.sidx, hend, ht.below⟩
  · rintro rfl
    exact (exec_phaseSpot s).trans (performPhase_of_ok hop)
  · rintro rfl
    exact (exec_phaseUnspot s).trans (performPhase_of_ok hop)
  · rw [ht.at_spot hend hp]
    cases delta <;> rfl

/-! ## SPOT, then UNSPOT (R278) -/

/-- Two arrays in canonical form that read the same are the same (log entry 5). -/
theorem arr_ext {w : Nat} : ∀ {a b : Arr w} {lo hi : Nat}, arrWfFrom lo a = true → arrWfFrom hi b = true →
    (∀ i, arrGet a i = arrGet b i) → a = b
  | [], [], _, _, _, _, _ => rfl
  | [], (k, v) :: b, _, _, _, hb, h => by
    simp only [arrWfFrom, Bool.and_eq_true, bne_iff_ne] at hb
    obtain ⟨⟨-, hv⟩, -⟩ := hb
    exact absurd (by simpa [arrGet] using (h k).symm) hv
  | (k, v) :: a, [], _, _, ha, _, h => by
    simp only [arrWfFrom, Bool.and_eq_true, bne_iff_ne] at ha
    obtain ⟨⟨-, hv⟩, -⟩ := ha
    exact absurd (by simpa [arrGet] using h k) hv
  | (k, v) :: a, (j, u) :: b, _, _, ha, hb, h => by
    simp only [arrWfFrom, Bool.and_eq_true, bne_iff_ne] at ha hb
    obtain ⟨⟨-, hv⟩, ha⟩ := ha
    obtain ⟨⟨-, hu⟩, hb⟩ := hb
    obtain hkj | rfl | hjk := Nat.lt_trichotomy k j
    · exact absurd (by simpa [arrGet, hkj] using h k) hv
    · have hvu : v = u := by simpa [arrGet] using h k
      refine congrArg₂ _ (by rw [hvu]) (arr_ext ha hb fun i => ?_)
      obtain hi | rfl | hi := Nat.lt_trichotomy i k
      · rw [arrGet_of_lt ha (by omega), arrGet_of_lt hb (by omega)]
      · rw [arrGet_of_lt ha (by omega), arrGet_of_lt hb (by omega)]
      · simpa [arrGet, Nat.lt_asymm hi, hi.ne'] using h i
    · exact absurd (by simpa [arrGet, hjk] using (h j).symm) hu

theorem spotByte_minus_plus (b : Byte) : spotByte .minus (spotByte .plus b) = b :=
  BitVec.add_sub_cancel b 1#8

/-- Settles O31: both runs visit the same positions, and a byte raised and lowered by one is itself. -/
theorem spotSymmetry : Obligations.SpotSymmetry := by
  intro s t hp ⟨hwf, _⟩ hn hspot
  obtain ⟨⟨⟩, t', hop, q, ht, hend⟩ := (spotApplyOp_completes (delta := .plus) ⟨hp, hwf, hn⟩).ends
  obtain rfl : t' = t := by
    have hnext := (exec_spotApply .plus s).symm.trans hspot
    rw [perform_of_ok hop] at hnext
    exact Host.Outcome.next.inj hnext
  have htn : t'.n = s.n := by rw [ht.frame]
  have hready : SpotReady t' := ⟨by rw [ht.frame]; exact hp, ht.wf, by rw [ht.frame]; exact hn⟩
  obtain ⟨⟨⟩, u, hop', q', hu, hend'⟩ := (spotApplyOp_completes (delta := .minus) hready).ends
  refine ⟨u, (exec_spotApply .minus t').trans (perform_of_ok hop'), arr_ext hu.wf hwf fun i => ?_⟩
  by_cases hi : ∃ p, spotPos p + 1 < s.n.toNat ∧ i = spotPos p
  · obtain ⟨p, hp, rfl⟩ := hi
    rw [hu.at_spot hend' (by rwa [htn]), ht.at_spot hend hp, spotByte_minus_plus]
  · have hoff : ∀ p, spotPos p + 1 < s.n.toNat → i ≠ spotPos p := fun p hp heq => hi ⟨p, hp, heq⟩
    rw [hu.off_spots (by rwa [htn]), ht.off_spots hoff]

end Sys2Proof.Machine
end

/-! PROOFS. The family `45_rle_spot.md`, LOAD_RLE (O27): a pass takes one run from the input and puts its unit into
BLOCK; `expandUnits` reads each unit back as its run, so the whole block back as the input taken. -/
section
namespace Sys2Proof.Machine

variable {s t u : State} {x y : List Byte} {c : Byte} {run : Nat}

/-! ## The unit of a run (R105) -/

/-- The unit of `run` copies of `c`. -/
def runUnit (c : Byte) (run : Nat) : List Byte :=
  if run < 4 then List.replicate run c else [c, c, c, c, BitVec.ofNat 8 (run - 4)]

theorem runUnit_of_lt (h : run < 4) (c : Byte) : runUnit c run = List.replicate run c := if_pos h

theorem runUnit_of_le (h : 4 ≤ run) (c : Byte) : runUnit c run = [c, c, c, c, BitVec.ofNat 8 (run - 4)] :=
  if_neg (Nat.not_lt.2 h)

theorem putsBytes_emitRunOp (c : Byte) (run : Nat) : PutsBytes (emitRunOp c run) (runUnit c run) := by
  rw [emitRunOp, runMin]
  by_cases h : run < 4
  · rw [if_pos h, runUnit_of_lt h]
    exact putsBytes_emitShortOp c run
  · rw [if_neg h, runUnit_of_le (Nat.le_of_not_lt h)]
    exact putsBytes_emitLongOp c _

/-- A unit takes one to five bytes, and stands for at most 51 times as many (R266). -/
theorem length_runUnit (h1 : 1 ≤ run) (hcap : run ≤ 255) (c : Byte) :
    1 ≤ (runUnit c run).length ∧ (runUnit c run).length ≤ 5 ∧ run ≤ 51 * (runUnit c run).length := by
  by_cases h : run < 4
  · rw [runUnit_of_lt h, List.length_replicate]
    omega
  · rw [runUnit_of_le (Nat.le_of_not_lt h)]
    simp only [List.length_cons, List.length_nil]
    omega

/-! ## Units read back (R267) -/

theorem runWith_of_fresh {cnt : Nat} {prev : Byte} (h : 0 < cnt → prev ≠ c) : runWith cnt prev c = 1 :=
  if_neg fun ⟨hpos, heq⟩ => h hpos heq.symm

theorem runWith_same {cnt : Nat} (h : 0 < cnt) : runWith cnt c c = cnt + 1 := if_pos ⟨h, rfl⟩

/-- Copies of a byte, fewer than complete a run of four. -/
theorem expandUnits_copies (rest : List Byte) : ∀ (k cnt : Nat), 0 < cnt → cnt + k < 4 →
    expandUnits cnt c (List.replicate k c ++ rest) =
      emitted (List.replicate k c) (expandUnits (cnt + k) c rest)
  | 0, _, _, _ => rfl
  | k + 1, cnt, hpos, hlt => by
    have hrun : runWith cnt c c = cnt + 1 := runWith_same hpos
    rw [List.replicate_succ, List.cons_append, expandUnits_byte (by omega), hrun,
      expandUnits_copies rest k (cnt + 1) (by omega) (by omega), emitted_emitted, Nat.add_assoc,
      Nat.add_comm 1 k]
    rfl

/-- How many bytes of a run the next byte could go on with after its unit: none after a count (R267). -/
def runLeft (run : Nat) : Nat := if run < 4 then run else 0

/-- A unit that does not go on with the run before it is read back as its run. -/
theorem expandUnits_runUnit {cnt : Nat} {prev : Byte} (hfresh : 0 < cnt → prev ≠ c) (h1 : 1 ≤ run)
    (hcap : run ≤ 255) (rest : List Byte) :
    expandUnits cnt prev (runUnit c run ++ rest) =
      emitted (List.replicate run c) (expandUnits (runLeft run) c rest) := by
  have hfirst : runWith cnt prev c = 1 := runWith_of_fresh hfresh
  rw [runLeft]
  by_cases h : run < 4
  · obtain ⟨k, rfl⟩ := Nat.exists_eq_add_of_le' h1
    rw [if_pos h, runUnit_of_lt h, List.replicate_succ, List.cons_append, expandUnits_byte (by omega),
      hfirst, expandUnits_copies rest k 1 (by omega) (by omega), emitted_emitted, Nat.add_comm 1 k]
    rfl
  · obtain ⟨k, rfl⟩ := Nat.exists_eq_add_of_le (Nat.le_of_not_lt h)
    have hcount : (BitVec.ofNat 8 (4 + k - 4)).toNat = k := by
      rw [BitVec.toNat_ofNat]
      omega
    have hfour : runWith 3 c c = 4 := runWith_same (by omega)
    have hcopies := expandUnits_copies (c := c) (c :: BitVec.ofNat 8 (4 + k - 4) :: rest) 2 1 (by omega)
      (by omega)
    rw [if_neg h, runUnit_of_le (Nat.le_of_not_lt h), List.cons_append, expandUnits_byte (by omega), hfirst]
    refine (congrArg (emitted [c]) hcopies).trans ?_
    rw [expandUnits_count hfour, hcount, emitted_emitted, emitted_emitted, List.replicate_add]
    rfl

/-- Something stands for every block of units but the empty one. -/
theorem expandUnits_ne_nil (cnt : Nat) (prev b : Byte) (rest : List Byte) :
    (expandUnits cnt prev (b :: rest)).1 ≠ [] := by
  by_cases h : runWith cnt prev b = 4
  · cases rest with
    | nil => simp [expandUnits_noCount h]
    | cons k rest => simp [expandUnits_count h, emitted]
  · simp [expandUnits_byte h, emitted]

/-! ## Input taken (R33, R264) -/

/-- The lookahead byte, if there is one. -/
def lookahead (s : State) : List Byte := if s.laValid then [s.laByte] else []

theorem pendingInput_eq (s : State) : pendingInput s = lookahead s ++ s.byteIn := rfl

theorem pendingInput_eq_nil_iff : pendingInput s = [] ↔ s.laValid = false ∧ s.byteIn = [] := by
  rw [pendingInput_eq, List.append_eq_nil_iff, lookahead]
  cases s.laValid <;> simp

/-- The loader takes `x` from the input before it; what it pulls for that is counted in CRC, once. -/
def Takes (s : State) (x : List Byte) (t : State) : Prop :=
  ∃ pulled, s.byteIn = pulled ++ t.byteIn ∧ lookahead s ++ pulled = x ++ lookahead t ∧
    t.crc = crcOver s.crc pulled

theorem Takes.refl (s : State) : Takes s [] s := ⟨[], rfl, List.append_nil _, rfl⟩

theorem Takes.trans (h : Takes s x t) (h' : Takes t y u) : Takes s (x ++ y) u := by
  obtain ⟨p, hp, hx, hcrc⟩ := h
  obtain ⟨q, hq, hy, hcrc'⟩ := h'
  refine ⟨p ++ q, ?_, ?_, ?_⟩
  · rw [hp, hq, List.append_assoc]
  · rw [← List.append_assoc, hx, List.append_assoc, hy, List.append_assoc]
  · rw [hcrc', hcrc, crcOver_append]

theorem Takes.pendingInput_eq (h : Takes s x t) : pendingInput s = x ++ pendingInput t := by
  obtain ⟨p, hp, hx, -⟩ := h
  rw [Machine.pendingInput_eq, Machine.pendingInput_eq, hp, ← List.append_assoc, hx, List.append_assoc]

/-! ## One run (R262) -/

/-- Everything but the input and what the loader keeps of it. -/
def besideInput (s : State) : State :=
  { s with byteIn := [], crc := 0#32, laValid := false, laByte := 0#8, srcEod := false }

/-- `run` copies of `c` were taken, and the next byte, if there is one, is still in the port. -/
structure RunTaken (s : State) (c : Byte) (run : Nat) (t : State) : Prop where
  takes : Takes s (List.replicate run c) t
  frame : besideInput t = besideInput s
  noLookahead : t.laValid = false
  notEod : t.srcEod = false

/-- The run ended: at the end of the input, at 255 bytes, or before another byte (R262, R263). -/
structure RunEnded (s : State) (c : Byte) (run : Nat) (t : State) : Prop where
  takes : Takes s (List.replicate run c) t
  frame : besideInput t = besideInput s
  pos : 1 ≤ run
  le : run ≤ 255
  ended : t.srcEod = true ∧ pendingInput t = [] ∨
    t.srcEod = false ∧ (run = 255 ∨ (pendingInput t).head? ≠ some c)

/-- The first byte of a run is the lookahead byte, or it is pulled. -/
theorem firstOfRun_takes {rest : List Byte} (hsrc : s.srcEod = false) (h : pendingInput s = c :: rest) :
    Completes s firstOfRun fun b t => b = some c ∧ RunTaken s c 1 t ∧ t.byteIn = rest := by
  rw [pendingInput_eq, lookahead] at h
  refine .get ?_
  cases hla : s.laValid with
  | true =>
    obtain ⟨hbyte, hin⟩ : s.laByte = c ∧ s.byteIn = rest := by simpa [hla] using h
    exact .ok_bind rfl (.pure ⟨congrArg some hbyte,
      ⟨⟨[], rfl, by simp [lookahead, hla, hbyte], rfl⟩, rfl, rfl, hsrc⟩, hin⟩)
  | false =>
    have hin : s.byteIn = c :: rest := by simpa [hla] using h
    exact .ok_bind (pullByte_cons hin) (.pure ⟨rfl,
      ⟨⟨[c], hin, by simp [lookahead, hla], rfl⟩, rfl, hla, hsrc⟩, rfl⟩)

/-- No input is left for a run. -/
theorem firstOfRun_eod (h : pendingInput s = []) (heod : s.byteInEod = true) :
    firstOfRun s = .ok none { s with srcEod := true } := by
  obtain ⟨hla, hin⟩ := pendingInput_eq_nil_iff.1 h
  rw [firstOfRun, seq_bind_of_ok (seq_get s), if_neg (by rw [hla]; nofun),
    seq_bind_of_ok (pullByte_eod hin heod)]
  rfl

/-- One more byte of the run is pulled. -/
theorem RunTaken.pull {rest : List Byte} (h : RunTaken s c run t) (hin : t.byteIn = c :: rest) :
    RunTaken s c (run + 1) { t with byteIn := rest, crc := crcNext t.crc c } where
  takes := by
    rw [List.replicate_succ']
    exact h.takes.trans ⟨[c], hin, by simp [lookahead, h.noLookahead], rfl⟩
  frame := h.frame
  noLookahead := h.noLookahead
  notEod := h.notEod

/-- The byte that ends the run becomes the lookahead byte (R264). -/
theorem RunTaken.lookAhead {b : Byte} {rest : List Byte} (h : RunTaken s c run t)
    (hin : t.byteIn = b :: rest) :
    Takes s (List.replicate run c)
      { t with byteIn := rest, crc := crcNext t.crc b, laByte := b, laValid := true } := by
  rw [← List.append_nil (List.replicate run c)]
  exact h.takes.trans ⟨[b], hin, by simp [lookahead, h.noLookahead], rfl⟩

/-- The extension of R262 takes the whole run, up to 255 bytes. -/
theorem extendRun_ends : ∀ (room run : Nat) {t : State}, RunTaken s c run t → 1 ≤ run →
    room + run = 255 → (t.byteInEod = true ∨ room ≤ t.byteIn.length) →
    Completes t (extendRun c room run) (RunEnded s c)
  | 0, run, t, h, h1, hroom, _ => .pure ⟨h.takes, h.frame, h1, by omega, .inr ⟨h.notEod, .inl (by omega)⟩⟩
  | room + 1, run, t, h, h1, hroom, hsupply => by
    cases hin : t.byteIn with
    | nil =>
      have heod : t.byteInEod = true := by simpa [hin] using hsupply
      exact .ok_bind (pullByte_eod hin heod) (.ok_bind rfl (.pure ⟨h.takes, h.frame, h1, by omega,
        .inl ⟨rfl, pendingInput_eq_nil_iff.2 ⟨h.noLookahead, hin⟩⟩⟩))
    | cons b rest =>
      refine .ok_bind (pullByte_cons hin) (.ite (fun hb => ?_) fun hb => .ok_bind rfl
        (.pure ⟨h.lookAhead hin, h.frame, h1, by omega, .inr ⟨h.notEod, .inr ?_⟩⟩))
      · rw [hb] at hin ⊢
        refine extendRun_ends room (run + 1) (h.pull hin) (by omega) (by omega) ?_
        rw [hin, List.length_cons] at hsupply
        exact hsupply.imp_right Nat.le_of_succ_le_succ
      · simpa [pendingInput] using hb

/-! ## Loading (R262) -/

/-- Everything but what `rle1.load` writes. -/
def besideLoad (s : State) : State :=
  { besideInput s with block := [], n := 0#32, pos := 0#32, finalBlock := false }

/-- What putting bytes into BLOCK rests on: CAP within its size, and its canonical form. -/
structure LoadReady (s : State) : Prop where
  params : paramsLegal s.par = true
  cap : capOf s ≤ capMax s.par
  wf : Memory.wf s.block = true

/-- `bytes` are put into BLOCK at the running length, and `x` is taken from the input for them. -/
structure Loads (s : State) (bytes x : List Byte) (t : State) : Prop where
  ready : LoadReady t
  frame : besideLoad t = besideLoad s
  appends : appendsBlock s t bytes
  pos : t.pos.toNat = s.pos.toNat + bytes.length
  takes : Takes s x t

theorem Loads.trans {bytes bytes' : List Byte} (h : Loads s bytes x t) (h' : Loads t bytes' y u) :
    Loads s (bytes ++ bytes') (x ++ y) u where
  ready := h'.ready
  frame := h'.frame.trans h.frame
  appends := appendsBlock_append h.pos h.appends h'.appends
  pos := by rw [h'.pos, h.pos, List.length_append, Nat.add_assoc]
  takes := h.takes.trans h'.takes

theorem Loads.capOf_eq {bytes : List Byte} (h : Loads s bytes x t) : capOf t = capOf s :=
  (congrArg capOf h.frame :)

theorem Loads.byteInEod_eq {bytes : List Byte} (h : Loads s bytes x t) : t.byteInEod = s.byteInEod :=
  (congrArg State.byteInEod h.frame :)

/-- Taking a run puts nothing into BLOCK yet. -/
theorem RunEnded.loads (h : RunEnded s c run t) (hs : LoadReady s) :
    Loads s [] (List.replicate run c) t := by
  have hblock : t.block = s.block := (congrArg State.block h.frame :)
  have hpos : t.pos = s.pos := (congrArg State.pos h.frame :)
  have hpar : t.par = s.par := (congrArg State.par h.frame :)
  have hcap : capOf t = capOf s := (congrArg capOf h.frame :)
  refine ⟨⟨by rw [hpar]; exact hs.params, by rw [hcap, hpar]; exact hs.cap, by rw [hblock]; exact hs.wf⟩,
    (congrArg besideLoad h.frame :), fun i => ?_, by rw [hpos]; rfl, h.takes⟩
  rw [hblock, if_neg (by simp)]

/-- An operation that puts bytes into BLOCK, within CAP. -/
theorem PutsBytes.loads {op : Seq Unit} {bytes : List Byte} (h : PutsBytes op bytes) (hs : LoadReady s)
    (hroom : s.pos.toNat + bytes.length ≤ capOf s) :
    Completes s op fun _ t => Loads s bytes [] t ∧ t = { s with block := t.block, pos := t.pos } := by
  have hsize := le_blockSize (hroom.trans hs.cap)
  obtain ⟨t, hop, hwf, happ, ht⟩ := h s hs.wf (blockSize_lt hs.params) hsize
  have hframe : t = { s with block := t.block, pos := t.pos } :=
    ht.trans (by rw [congrArg State.pos ht])
  have hpos : t.pos.toNat = s.pos.toNat + bytes.length := by
    rw [ht]
    exact toNat_pos_add hroom
  refine .of_ok hop ⟨⟨⟨?_, ?_, hwf⟩, (congrArg besideLoad hframe :), happ, hpos, ?_⟩, hframe⟩
  · rw [ht]
    exact hs.params
  · rw [ht]
    exact hs.cap
  · rw [ht]
    exact .refl s

/-- A block closed as final: the input is at its end (R263). -/
structure BlockClosed (t : State) : Prop where
  final : t.finalBlock = true
  srcEod : t.srcEod = true
  atEnd : pendingInput t = []

/-- The sentinel closes the block once the input is at its end (R106). -/
theorem emitSentinelOp_closes (hs : LoadReady s) (hroom : s.pos.toNat + 1 ≤ capOf s) (hsrc : s.srcEod = true)
    (hend : pendingInput s = []) :
    Completes s emitSentinelOp fun _ t => Loads s [42#8] [] t ∧ BlockClosed t := by
  refine .bind (PutsBytes.loads (.appendBlock 42#8) hs hroom) fun _ t ⟨ht, hframe⟩ => .of_ok rfl ⟨?_, ?_⟩
  · exact ⟨⟨ht.ready.params, ht.ready.cap, ht.ready.wf⟩, ht.frame, ht.appends, ht.pos, ht.takes⟩
  · refine ⟨rfl, ?_, ?_⟩
    · rw [hframe]
      exact hsrc
    · rw [hframe]
      exact hend

/-! ## One pass (R262) -/

theorem blockFull_iff (s : State) : blockFull s s.pos.toNat = true ↔ capOf s < s.pos.toNat + 26 :=
  decide_eq_true_iff

theorem loadPass_full (h : capOf s < s.pos.toNat + 26) : loadPass s = .ok true s := by
  rw [loadPass, seq_bind_of_ok (seq_get s), if_pos ((blockFull_iff s).2 h)]
  rfl

/-- Without input a pass closes the block. -/
theorem loadPass_closes (hs : LoadReady s) (hroom : s.pos.toNat + 26 ≤ capOf s) (hend : pendingInput s = [])
    (heod : s.byteInEod = true) :
    Completes s loadPass fun leave t => leave = true ∧ Loads s [42#8] [] t ∧ BlockClosed t := by
  have hstart : LoadReady { s with srcEod := true } := ⟨hs.params, hs.cap, hs.wf⟩
  refine .get (.ite (fun hfull => ?_) fun _ => .ok_bind (firstOfRun_eod hend heod) (.bind
    (emitSentinelOp_closes hstart (Nat.le_trans (by simp) hroom) rfl hend) fun _ t ⟨ht, hclosed⟩ =>
      .pure ⟨rfl, ⟨ht.ready, ht.frame, ht.appends, ht.pos, ht.takes⟩, hclosed⟩))
  rw [blockFull_iff] at hfull
  omega

/-- The unit of a run was put into BLOCK. -/
structure RunLoaded (s : State) (c : Byte) (run : Nat) (t : State) : Prop where
  pos : 1 ≤ run
  le : run ≤ 255
  loads : Loads s (runUnit c run) (List.replicate run c) t
  final : t.finalBlock = s.finalBlock
  ended : t.srcEod = true ∧ pendingInput t = [] ∨
    t.srcEod = false ∧ (run = 255 ∨ (pendingInput t).head? ≠ some c)

/-- So was that of the last run, and the sentinel behind it. -/
structure RunClosed (s : State) (c : Byte) (run : Nat) (t : State) : Prop where
  pos : 1 ≤ run
  le : run ≤ 255
  loads : Loads s (runUnit c run ++ [42#8]) (List.replicate run c) t
  closed : BlockClosed t

/-- There is room for the unit of a run. -/
theorem RunEnded.emit (h : RunEnded s c run t) (hs : LoadReady s) (hroom : s.pos.toNat + 26 ≤ capOf s) :
    Completes t (emitRunOp c run) fun _ => RunLoaded s c run := by
  obtain ⟨-, hlen5, -⟩ := length_runUnit h.pos h.le c
  have htaken := h.loads hs
  have hpos : t.pos.toNat = s.pos.toNat := htaken.pos
  have hcap := htaken.capOf_eq
  refine .mono ((putsBytes_emitRunOp c run).loads htaken.ready (by omega)) fun _ u ⟨hu, hframe⟩ => ?_
  have hsrc : u.srcEod = t.srcEod := by rw [hframe]
  have hpending : pendingInput u = pendingInput t := by rw [hframe]; rfl
  have hloads := htaken.trans hu
  rw [List.nil_append, List.append_nil] at hloads
  refine ⟨h.pos, h.le, hloads, ?_, by rw [hsrc, hpending]; exact h.ended⟩
  rw [hframe]
  exact (congrArg State.finalBlock h.frame :)

/-- There is room for the sentinel behind it, if it was the last run. -/
theorem RunLoaded.close (h : RunLoaded s c run t) (hroom : s.pos.toNat + 26 ≤ capOf s) (hsrc : t.srcEod = true) :
    Completes t emitSentinelOp fun _ => RunClosed s c run := by
  obtain ⟨-, hlen5, -⟩ := length_runUnit h.pos h.le c
  have hpos := h.loads.pos
  have hcap := h.loads.capOf_eq
  obtain ⟨-, hend⟩ | ⟨hnot, -⟩ := h.ended
  · refine .mono (emitSentinelOp_closes h.loads.ready (by omega) hsrc hend) fun _ u ⟨hu, hclosed⟩ =>
      ⟨h.pos, h.le, ?_, hclosed⟩
    have hloads := h.loads.trans hu
    rwa [List.append_nil] at hloads
  · rw [hsrc] at hnot
    exact absurd hnot nofun

/-- With input a pass loads the unit of the run at its head, and closes the block if that was the last. -/
theorem loadPass_unit {rest : List Byte} (hs : LoadReady s) (hsrc : s.srcEod = false)
    (hroom : s.pos.toNat + 26 ≤ capOf s) (hin : pendingInput s = c :: rest)
    (hsupply : s.byteInEod = true ∨ 254 ≤ rest.length) :
    Completes s loadPass fun leave t => ∃ run, leave = true ∧ RunClosed s c run t ∨
      leave = false ∧ RunLoaded s c run t ∧ t.srcEod = false := by
  refine .get (.ite (fun hfull => ?_) fun _ => .bind (firstOfRun_takes hsrc hin) ?_)
  · rw [blockFull_iff] at hfull
    omega
  rintro _ t ⟨rfl, ht, hrest⟩
  have heod : t.byteInEod = s.byteInEod := (congrArg State.byteInEod ht.frame :)
  refine .bind (extendRun_ends 254 1 ht le_rfl rfl (by rwa [heod, hrest])) fun run u hu => ?_
  refine .bind (hu.emit hs hroom) fun _ v hv => .get (.ite (fun hlast => ?_) fun hmore => ?_)
  · exact .bind (hv.close hroom hlast) fun _ w hw => .pure ⟨run, .inl ⟨rfl, hw⟩⟩
  · exact .pure ⟨run, .inr ⟨rfl, hv, Bool.eq_false_of_not_eq_true hmore⟩⟩

/-! ## The loop (R261, R262) -/

/-- The loader before a pass, after `cnt` bytes `prev` that a unit could go on with: it does not, and there is
input to the end, or more than the rest of the block can take. -/
structure LoaderAt (cnt : Nat) (prev : Byte) (s : State) : Prop where
  ready : LoadReady s
  srcEod : s.srcEod = false
  notFinal : s.finalBlock = false
  room : s.pos.toNat + 21 ≤ capOf s
  fresh : 0 < cnt → (pendingInput s).head? ≠ some prev
  supply : s.byteInEod = true ∨ 51 * capOf s + 256 ≤ 51 * s.pos.toNat + (pendingInput s).length

/-- The block was built of `units`, which stand for the input `x` taken for them. -/
structure BlockBuilt (cnt : Nat) (prev : Byte) (s : State) (units x : List Byte) (t : State) : Prop where
  loads : Loads s (units ++ if t.finalBlock then [42#8] else []) x t
  expands : expandUnits cnt prev units = (x, true)
  srcEod : t.srcEod = t.finalBlock
  atEnd : t.finalBlock = true → pendingInput t = []
  room : t.pos.toNat + 20 ≤ capOf s
  full : t.finalBlock = false → capOf s < t.pos.toNat + 26 ∧ t.pos.toNat + 21 ≤ capOf s

theorem Loads.nil (hs : LoadReady s) : Loads s [] [] s :=
  ⟨hs, rfl, fun i => by rw [if_neg (by simp)], rfl, .refl s⟩

/-- A full block ends without a unit more. -/
theorem BlockBuilt.of_full {cnt : Nat} {prev : Byte} (h : LoaderAt cnt prev s)
    (hfull : capOf s < s.pos.toNat + 26) : BlockBuilt cnt prev s [] [] s where
  loads := by
    rw [h.notFinal]
    exact .nil h.ready
  expands := rfl
  srcEod := by rw [h.srcEod, h.notFinal]
  atEnd hfinal := absurd hfinal (by rw [h.notFinal]; nofun)
  room := by have := h.room; omega
  full _ := ⟨hfull, h.room⟩

/-- A block closed by its last pass. -/
theorem BlockBuilt.of_closed {cnt : Nat} {prev : Byte} {units : List Byte}
    (hloads : Loads s (units ++ [42#8]) x t) (hexpands : expandUnits cnt prev units = (x, true))
    (hclosed : BlockClosed t) (hroom : t.pos.toNat + 20 ≤ capOf s) : BlockBuilt cnt prev s units x t where
  loads := by
    rw [hclosed.final]
    exact hloads
  expands := hexpands
  srcEod := by rw [hclosed.srcEod, hclosed.final]
  atEnd _ := hclosed.atEnd
  room := hroom
  full hnot := absurd hclosed.final (by rw [hnot]; nofun)

/-- After a unit the loader stands before the next pass. -/
theorem RunLoaded.loaderAt {cnt : Nat} {prev : Byte} (h : RunLoaded s c run t) (hsrc : t.srcEod = false)
    (hs : LoaderAt cnt prev s) (hroom : s.pos.toNat + 26 ≤ capOf s) : LoaderAt (runLeft run) c t := by
  obtain ⟨-, hlen5, hlen51⟩ := length_runUnit h.pos h.le c
  have hpos := h.loads.pos
  have hcap := h.loads.capOf_eq
  refine ⟨h.loads.ready, hsrc, h.final.trans hs.notFinal, by omega, fun hleft => ?_, ?_⟩
  · obtain ⟨hend, -⟩ | ⟨-, rfl | hne⟩ := h.ended
    · rw [hsrc] at hend
      exact absurd hend nofun
    · exact absurd hleft (by decide)
    · exact hne
  · have hpending := congrArg List.length h.loads.takes.pendingInput_eq
    rw [List.length_append, List.length_replicate] at hpending
    rw [h.loads.byteInEod_eq]
    exact hs.supply.imp_right fun _ => by omega

/-- The unit of a pass before those of the passes after it. -/
theorem BlockBuilt.cons {cnt : Nat} {prev : Byte} {units : List Byte} (h : RunLoaded s c run t)
    (hfresh : 0 < cnt → prev ≠ c) (hu : BlockBuilt (runLeft run) c t units x u) :
    BlockBuilt cnt prev s (runUnit c run ++ units) (List.replicate run c ++ x) u where
  loads := by
    rw [List.append_assoc]
    exact h.loads.trans hu.loads
  expands := by
    rw [expandUnits_runUnit hfresh h.pos h.le, hu.expands]
    rfl
  srcEod := hu.srcEod
  atEnd := hu.atEnd
  room := h.loads.capOf_eq ▸ hu.room
  full := h.loads.capOf_eq ▸ hu.full

/-- The last unit of a final block. -/
theorem BlockBuilt.of_runClosed {cnt : Nat} {prev : Byte} (h : RunClosed s c run t)
    (hfresh : 0 < cnt → prev ≠ c) (hroom : s.pos.toNat + 26 ≤ capOf s) :
    BlockBuilt cnt prev s (runUnit c run) (List.replicate run c) t := by
  obtain ⟨-, hlen5, -⟩ := length_runUnit h.pos h.le c
  have hpos := h.loads.pos
  have hexpands := expandUnits_runUnit hfresh h.pos h.le []
  rw [List.length_append, List.length_singleton] at hpos
  rw [List.append_nil, expandUnits_nil, emitted, List.append_nil] at hexpands
  exact .of_closed h.loads hexpands h.closed (by omega)

/-- The loop builds a block: every pass lengthens it, so the passes of R262 suffice. -/
theorem loadLoop_builds : ∀ (fuel : Nat) {cnt : Nat} {prev : Byte} {s : State}, LoaderAt cnt prev s →
    capOf s < fuel + s.pos.toNat →
    Completes s (loadLoop fuel) fun _ t => ∃ units x, BlockBuilt cnt prev s units x t
  | 0, _, _, s, h, hfuel => by
    have := h.room
    omega
  | fuel + 1, cnt, prev, s, h, hfuel => by
    by_cases hfull : capOf s < s.pos.toNat + 26
    · exact .ok_bind (loadPass_full hfull) (.pure ⟨_, _, .of_full h hfull⟩)
    have hroom : s.pos.toNat + 26 ≤ capOf s := by omega
    cases hin : pendingInput s with
    | nil =>
      have heod : s.byteInEod = true := h.supply.resolve_right (by rw [hin, List.length_nil]; omega)
      refine .bind (loadPass_closes h.ready hroom hin heod) ?_
      rintro _ t ⟨rfl, ht, hclosed⟩
      have hpos : t.pos.toNat = s.pos.toNat + 1 := ht.pos
      exact .pure ⟨_, _, .of_closed (units := []) ht rfl hclosed (by omega)⟩
    | cons c rest =>
      have hsupply : s.byteInEod = true ∨ 254 ≤ rest.length := h.supply.imp_right fun _ => by
        have := congrArg List.length hin
        rw [List.length_cons] at this
        omega
      have hfresh : 0 < cnt → prev ≠ c := by
        rintro hcnt rfl
        exact h.fresh hcnt (by rw [hin]; rfl)
      refine .bind (loadPass_unit h.ready h.srcEod hroom hin hsupply) ?_
      rintro _ t ⟨run, ⟨rfl, ht⟩ | ⟨rfl, ht, hsrc⟩⟩
      · exact .pure ⟨_, _, .of_runClosed ht hfresh hroom⟩
      · obtain ⟨hlen, -, -⟩ := length_runUnit ht.pos ht.le c
        have hpos := ht.loads.pos
        have hcap := ht.loads.capOf_eq
        exact .mono (loadLoop_builds fuel (ht.loaderAt hsrc h hroom) (by omega)) fun _ u ⟨units, x, hu⟩ =>
          ⟨_, _, .cons ht hfresh hu⟩

end Sys2Proof.Machine
end

/-! PROOFS. The family `45_rle_spot.md`, whole blocks (O27, O29): what `rle1.load` leaves, and that loading and
unloading block after block hands the input through. -/
section
namespace Sys2Proof.Machine

variable {s t u : State} {x : List Byte}

/-! ## The block loaded (R262, R302) -/

/-- The first bytes put into an empty block are where it begins. -/
theorem blockFrom_of_appends {xs ys : List Byte} (h : appendsBlock s u (xs ++ ys)) (hpos : s.pos.toNat = 0) :
    blockFrom u 0 xs.length = xs := by
  refine List.ext_getElem (by simp [blockFrom]) fun i _ hi => ?_
  have hbyte := h i
  rw [hpos, List.length_append, if_pos (by omega), Nat.sub_zero, List.getD_append _ _ _ _ hi,
    List.getD_eq_getElem _ _ hi] at hbyte
  simpa [blockFrom] using hbyte

/-- The byte put there last stands behind them. -/
theorem arrGet_of_appends {xs : List Byte} {b : Byte} (h : appendsBlock s u (xs ++ [b]))
    (hpos : s.pos.toNat = 0) : arrGet (w := 8) u.block xs.length = b := by
  have hlast := h xs.length
  rwa [hpos, if_pos (by simp), Nat.sub_zero, List.getD_append_right _ _ _ _ le_rfl, Nat.sub_self] at hlast

/-- `rle1.load` left a block whose units stand for the input `x` taken for it (R260 to R264). -/
structure BlockLoaded (s : State) (x : List Byte) (t : State) : Prop where
  frame : besideLoad t = besideLoad s
  wf : Memory.wf t.block = true
  takes : Takes s x t
  expands : expandUnits 0 0#8 (unitBytesOf t) = (x, true)
  srcEod : t.srcEod = t.finalBlock
  pos : t.pos = t.n
  one_le : 1 ≤ t.n.toNat
  le : t.n.toNat + 20 ≤ capOf s
  closed : t.finalBlock = true → arrGet (w := 8) t.block (t.n.toNat - 1) = 42#8 ∧ pendingInput t = []
  full : t.finalBlock = false → capOf s ≤ t.n.toNat + 25 ∧ t.n.toNat + 21 ≤ capOf s
  rest : ∀ i, t.n.toNat ≤ i → arrGet (w := 8) t.block i = arrGet (w := 8) s.block i

/-- The state before the first pass (R262). -/
def blockEmptied (s : State) : State := { s with pos := 0#32, finalBlock := false }

@[simp] theorem blockEmptied_pos (s : State) : (blockEmptied s).pos.toNat = 0 := rfl

/-- What `rle1.load` starts from. -/
structure LoadStart (s : State) : Prop where
  params : paramsLegal s.par = true
  arrays : arraysOk s
  level : levelFits s
  srcEod : s.srcEod = false
  supply : s.byteInEod = true ∨ 51 * capOf s + 256 ≤ s.byteIn.length

theorem LoadStart.cap_ge (h : LoadStart s) : 100000 ≤ capOf s := by
  have := h.level.1
  simp only [capOf, blockUnit]
  omega

theorem LoadStart.loaderAt (h : LoadStart s) :
    LoaderAt 0 0#8 (blockEmptied s) where
  ready := ⟨h.params, capOf_le_capMax h.level, h.arrays.1⟩
  srcEod := h.srcEod
  notFinal := rfl
  room := by
    have hcap := h.cap_ge
    rw [blockEmptied_pos]
    exact Nat.le_trans (by decide) hcap
  fresh := nofun
  supply := h.supply.imp_right fun hlen => by
    change 51 * capOf s + 256 ≤ 51 * 0 + (lookahead s ++ s.byteIn).length
    rw [List.length_append]
    omega

section Built

variable {units : List Byte} (h : BlockBuilt 0 0#8 (blockEmptied s) units x t)
include h

/-- N of a block built from nothing: its units, and the sentinel of a final one. -/
theorem BlockBuilt.pos_eq : t.pos.toNat = units.length + if t.finalBlock then 1 else 0 := by
  have hpos := h.loads.pos
  rw [List.length_append] at hpos
  refine hpos.trans ((Nat.zero_add _).trans ?_)
  cases t.finalBlock <;> rfl

/-- Its bytes that carry units are those units (R106). -/
theorem BlockBuilt.unitBytesOf_eq : unitBytesOf { t with n := t.pos } = units := by
  have hpos := h.pos_eq
  have hunits : blockFrom { t with n := t.pos } 0 units.length = units :=
    blockFrom_of_appends h.loads.appends rfl
  obtain hf | hf := Bool.eq_false_or_eq_true t.finalBlock
  · rw [hf, if_pos rfl] at hpos
    rwa [unitBytesOf_final (s := { t with n := t.pos }) hf, hpos, Nat.add_sub_cancel]
  · rw [hf, if_neg nofun] at hpos
    rwa [unitBytesOf_notFinal (s := { t with n := t.pos }) hf, hpos]

/-- The sentinel stands behind them. -/
theorem BlockBuilt.sentinel_at (hf : t.finalBlock = true) :
    arrGet (w := 8) t.block (t.pos.toNat - 1) = 42#8 := by
  have hpos := h.pos_eq
  have happends := h.loads.appends
  rw [hf, if_pos rfl] at hpos happends
  rw [hpos, Nat.add_sub_cancel]
  exact arrGet_of_appends happends rfl

/-- Nothing behind N was written (log entry 28). -/
theorem BlockBuilt.rest {i : Nat} (hi : t.pos.toNat ≤ i) :
    arrGet (w := 8) t.block i = arrGet (w := 8) s.block i := by
  have hpos := h.loads.pos
  rw [h.loads.appends i, if_neg fun ⟨_, hlt⟩ => by omega]
  rfl

/-- A block built from nothing is a block loaded. -/
theorem BlockBuilt.blockLoaded (hs : LoadStart s) : BlockLoaded s x { t with n := t.pos } where
  frame := h.loads.frame
  wf := h.loads.ready.wf
  takes := h.loads.takes
  expands := by
    rw [h.unitBytesOf_eq]
    exact h.expands
  srcEod := h.srcEod
  pos := rfl
  one_le := by
    have hcap := hs.cap_ge
    have hpos := h.pos_eq
    cases hf : t.finalBlock with
    | false =>
      have hfull : capOf s < t.pos.toNat + 26 := (h.full hf).1
      change 1 ≤ t.pos.toNat
      omega
    | true =>
      rw [hf, if_pos rfl] at hpos
      exact hpos ▸ Nat.le_add_left ..
  le := h.room
  closed hf := ⟨h.sentinel_at hf, h.atEnd hf⟩
  full hf := by
    obtain ⟨hlt, hle⟩ := h.full hf
    exact ⟨Nat.lt_succ_iff.1 hlt, hle⟩
  rest _ hi := h.rest hi

end Built

theorem loadOp_loads (hs : LoadStart s) :
    Completes s loadOp fun _ t => ∃ x, BlockLoaded s x t := by
  refine .ok_bind rfl (.get (.bind (loadLoop_builds _ hs.loaderAt (Nat.lt_succ_self _)) ?_))
  rintro _ t ⟨units, x, ht⟩
  exact .of_ok rfl ⟨x, ht.blockLoaded hs⟩

/-- What is equal beside the loader's writes differs by them alone. -/
theorem eq_of_besideLoad (h : besideLoad t = besideLoad s) :
    t = { s with
      block := t.block, n := t.n, pos := t.pos, finalBlock := t.finalBlock, srcEod := t.srcEod
      laValid := t.laValid, laByte := t.laByte, byteIn := t.byteIn, crc := t.crc } :=
  (congrArg (fun v : State => { v with
    block := t.block, n := t.n, pos := t.pos, finalBlock := t.finalBlock, srcEod := t.srcEod
    laValid := t.laValid, laByte := t.laByte, byteIn := t.byteIn, crc := t.crc }) h :)

theorem exec_rle1Load (s : State) : exec .rle1Load s = perform loadOp s := rfl

theorem exec_phaseLoadRle (s : State) : exec .phaseLoadRle s = performPhase loadOp s := rfl

/-- Settles O27: the loop of R262 builds the block pass by pass, and nothing else of the state changes. -/
theorem loadBuildsTheBlock : Obligations.LoadBuildsTheBlock := by
  intro s hp ha hlevel hmax hsrc hsupply
  obtain ⟨⟨⟩, t, hop, x, ht⟩ := (loadOp_loads ⟨hp, ha, ⟨hlevel, hmax⟩, hsrc, hsupply⟩).ends
  obtain ⟨pulled, hin, -, hcrc⟩ := ht.takes
  refine ⟨t, x, pulled, (exec_rle1Load s).trans (perform_of_ok hop),
    (exec_phaseLoadRle s).trans (performPhase_of_ok hop), ?_, hin, ht.expands, ht.takes.pendingInput_eq,
    ht.one_le, ht.le, fun hf => ?_, ht.full, ht.rest⟩
  · have hframe := eq_of_besideLoad ht.frame
    rwa [ht.pos, ht.srcEod, hcrc] at hframe
  · obtain ⟨hsentinel, hend⟩ := ht.closed hf
    exact ⟨hsentinel, pendingInput_eq_nil_iff.1 hend⟩

/-! ## Block after block (R272 (a)) -/

/-- What was loaded is pushed by unloading it. -/
theorem BlockLoaded.unload (h : BlockLoaded s x t) (hs : LoadStart s) :
    exec .rle1Unload t = .next (bytesPushed x t) := by
  have hpar : t.par = s.par := (congrArg State.par h.frame :)
  have hle := h.le
  have hcap := capOf_le_capMax hs.level
  have hn : t.n.toNat ≤ blockSize t := le_blockSize (by rw [hpar]; omega)
  have hop := unloadOp_eq hn (fun _ => h.one_le) fun hf => (h.closed hf).1
  rw [h.expands] at hop
  exact (exec_rle1Unload t).trans (perform_of_ok hop)

/-- A block that is not final stands for some input (R266). -/
theorem BlockLoaded.ne_nil (h : BlockLoaded s x t) (hf : t.finalBlock = false) : x ≠ [] := by
  have hunits := h.expands
  rw [unitBytesOf_notFinal hf, blockFrom_of_lt h.one_le] at hunits
  have hne := expandUnits_ne_nil 0 0#8 (arrGet (w := 8) t.block 0) (blockFrom t (0 + 1) t.n.toNat)
  rwa [hunits] at hne

/-- The next block is loaded as this one was. -/
theorem BlockLoaded.loadStart (h : BlockLoaded s x t) (hs : LoadStart s) (hf : t.finalBlock = false)
    (heod : s.byteInEod = true) : LoadStart (bytesPushed x t) := by
  have hpar : t.par = s.par := (congrArg State.par h.frame :)
  have hlevel : t.level = s.level := (congrArg State.level h.frame :)
  obtain ⟨-, harrays⟩ := hs.arrays
  refine ⟨?_, ⟨h.wf, ?_⟩, ?_, ?_, .inl ?_⟩
  · exact hpar ▸ hs.params
  · rw [eq_of_besideLoad h.frame]
    exact harrays
  · change 1 ≤ t.level.toNat ∧ t.level.toNat ≤ t.par.maxLevel
    rw [hlevel, hpar]
    exact hs.level
  · exact h.srcEod.trans hf
  · exact ((congrArg State.byteInEod h.frame :) : t.byteInEod = s.byteInEod).trans heod

theorem throughBlocks_succ {fuel : Nat} (hload : exec .rle1Load s = .next t)
    (hunload : exec .rle1Unload t = .next u) :
    throughBlocks (fuel + 1) s = if u.finalBlock then some u else throughBlocks fuel u := by
  rw [throughBlocks]
  simp only [hload, hunload]

/-- Every block but the final one takes some of the input, so the blocks end, with all of it pushed. -/
theorem throughBlocks_pushes (k : Nat) : ∀ {s : State}, (pendingInput s).length = k → LoadStart s →
    s.byteInEod = true →
    ∃ fuel t, throughBlocks fuel s = some t ∧ t.finalBlock = true ∧ t.byteIn = [] ∧
      t.byteOut = s.byteOut ++ pendingInput s := by
  induction k using Nat.strong_induction_on with
  | _ k ih =>
    intro s hk hs heod
    obtain ⟨⟨⟩, t, hop, x, ht⟩ := (loadOp_loads hs).ends
    have hthrough := fun fuel => throughBlocks_succ (fuel := fuel)
      ((exec_rle1Load s).trans (perform_of_ok hop)) (ht.unload hs)
    have hout : (bytesPushed x t).byteOut = s.byteOut ++ x :=
      congrArg (· ++ x) (congrArg State.byteOut ht.frame :)
    have htaken := ht.takes.pendingInput_eq
    cases hf : t.finalBlock with
    | true =>
      obtain ⟨-, hend⟩ := ht.closed hf
      rw [hend, List.append_nil] at htaken
      exact ⟨1, _, (hthrough 0).trans (if_pos hf), hf, (pendingInput_eq_nil_iff.1 hend).2,
        by rw [hout, htaken]⟩
    | false =>
      have hx := List.length_pos_of_ne_nil (ht.ne_nil hf)
      have hless : (pendingInput (bytesPushed x t)).length < k := by
        rw [← hk, htaken, List.length_append]
        exact Nat.lt_add_of_pos_left hx
      have hnext := ht.loadStart hs hf heod
      have hnexteod : (bytesPushed x t).byteInEod = true := (congrArg State.byteInEod ht.frame :).trans heod
      obtain ⟨fuel, u, hu, hfinal, hin, hbytes⟩ := ih _ hless rfl hnext hnexteod
      refine ⟨fuel + 1, u, (hthrough fuel).trans ?_, hfinal, hin, ?_⟩
      · exact (if_neg (by rw [show (bytesPushed x t).finalBlock = false from hf]; nofun)).trans hu
      · rw [hbytes, hout, htaken, List.append_assoc]
        rfl

/-- Settles O29, by the blocks one after another. -/
theorem loadThenUnloadRestoresTheInput : Obligations.LoadThenUnloadRestoresTheInput := by
  intro s hp ha hlevel hmax hsrc heod
  exact throughBlocks_pushes _ rfl ⟨hp, ha, ⟨hlevel, hmax⟩, hsrc, .inl heod⟩ heod

end Sys2Proof.Machine
end

/-! PROOFS. The family `46_pipeline.md`, what one step performs (O5, O8), the commands (O6, O11, O22) and the phase
transition (O24). -/
section
namespace Sys2Proof.Machine

variable {s : State}

/-! ## Which act a step takes -/

theorem step_of_no_act (h : s.host = []) : step s = sequencerStep s := by
  rw [step, stepOnce, h]

theorem step_of_act {e : HostEvent} {rest : List HostEvent} (h : s.host = e :: rest) :
    step s = hostAct e s { s with host := rest } := by
  rw [step, stepOnce, h]

theorem step_writeCmd {w : Word} {rest : List HostEvent} (h : s.host = .write 0 w :: rest) :
    step s = writeCmd w { s with host := rest } :=
  step_of_act h

theorem writeCmd_of_ok {w : Word} {i : Instr} (h : decode (.cmd w) = .ok i) (s : State) :
    writeCmd w s = exec i s := by
  rw [writeCmd, h]

theorem writeCmd_of_error {w : Word} {e : Reject} (h : decode (.cmd w) = .error e) (s : State) :
    writeCmd w s = .next (illegalCommand s) := by
  rw [writeCmd, h]

theorem sequencerStep_of_fault (h : s.fault = true) : sequencerStep s = .next s := if_pos h

theorem sequencerStep_of_latch {c : Code} {i : Instr} (hf : s.fault = false) (hlatch : s.latch = some c)
    (hc : decode c = .ok i) : sequencerStep s = exec i { s with latch := none } := by
  rw [sequencerStep, if_neg (by simp [hf]), fetchCode, hlatch, performCode, hc]

/-- With BUSY = 0 the sequencer is in IDLE, which performs nothing (R291). -/
theorem sequencerStep_of_idle (hb : s.busy = false) (hlatch : s.latch = none) :
    sequencerStep s = .next s := by
  cases hf : s.fault with
  | true => exact sequencerStep_of_fault hf
  | false =>
    rw [sequencerStep_of_latch_none hf hlatch, hb]
    rfl

/-- Settles O5, by where a step takes its coded item from. -/
theorem stepPerformsTheDecodedInstruction : Obligations.StepPerformsTheDecodedInstruction := by
  intro s i
  refine ⟨fun w rest hw hi => ?_, fun c hh hf hlatch hc => ?_, fun hh hf hlatch hb hi => ?_,
    fun hh hf hlatch hb => ?_⟩
  · rw [step_writeCmd hw, writeCmd_of_ok hi]
  · rw [step_of_no_act hh, sequencerStep_of_latch hf hlatch hc]
  · rw [decode_phaseCode, Except.ok.injEq] at hi
    rw [step_of_no_act hh, sequencerStep_of_latch_none hf hlatch, if_pos hb, hi]
  · exact (step_of_no_act hh).trans (sequencerStep_of_idle hb hlatch)

/-- Settles O8: IDLE is performed by doing nothing, and FAULT is tested before anything is fetched. -/
theorem inertSequencer : Obligations.InertSequencer := fun _ =>
  ⟨rfl, fun hh hf => (step_of_no_act hh).trans (sequencerStep_of_fault hf),
    fun hh hb hlatch => (step_of_no_act hh).trans (sequencerStep_of_idle hb hlatch)⟩

/-! ## Commands -/

theorem commandsDropped_iff : commandsDropped s = true ↔ s.busy = true ∨ s.fault = true := by
  simp [commandsDropped]

theorem commandsDropped_eq_false_iff :
    commandsDropped s = false ↔ s.busy = false ∧ s.fault = false := by
  simp [commandsDropped]

theorem exec_compress_dropped (h : commandsDropped s = true) (lvl : BitVec 4) :
    exec (.compress lvl) s = .next s := if_pos h

theorem exec_decompress_dropped (h : commandsDropped s = true) : exec .decompress s = .next s := if_pos h

theorem exec_compress_accepted {lvl : BitVec 4} (h : commandsDropped s = false)
    (hlvl : levelOk lvl = true) : exec (.compress lvl) s = .next (acceptCompress lvl s) :=
  (if_neg (by simp [h])).trans (if_pos hlvl)

theorem exec_decompress_accepted (h : commandsDropped s = false) :
    exec .decompress s = .next (acceptDecompress s) :=
  if_neg (by simp [h])

theorem illegalCommand_dropped (h : commandsDropped s = true) : illegalCommand s = s := if_pos h

theorem illegalCommand_taken (h : commandsDropped s = false) : illegalCommand s = faulted 0x40#8 s :=
  if_neg (by simp [h])

/-- A level that no legal word holds is an illegal command (log entry 17). -/
theorem exec_compress_illegal {lvl : BitVec 4} (h : commandsDropped s = false)
    (hlvl : ¬ levelOk lvl = true) : exec (.compress lvl) s = .next (faulted 0x40#8 s) := by
  rw [← illegalCommand_taken h]
  exact (if_neg (by simp [h])).trans (if_neg hlvl)

/-- Settles O6, by whether commands are dropped and whether the level is legal. -/
theorem commandAcceptance : Obligations.CommandAcceptance := by
  intro s lvl
  refine ⟨fun hd => ?_, fun ha => ?_, fun w rest e hw he => ⟨fun ha => ?_, fun hd => ?_⟩⟩
  · have hd := commandsDropped_iff.2 hd
    exact ⟨rfl, exec_compress_dropped hd lvl, exec_decompress_dropped hd⟩
  · have ha := commandsDropped_eq_false_iff.2 ha
    exact ⟨rfl, fun hlvl => exec_compress_accepted ha (levelOk_iff.2 hlvl), exec_decompress_accepted ha,
      fun hlvl => exec_compress_illegal ha (levelOk_iff.not.2 hlvl)⟩
  · rw [step_writeCmd hw, writeCmd_of_error he]
    exact congrArg _ (illegalCommand_taken (commandsDropped_eq_false_iff.2 ha))
  · rw [step_writeCmd hw, writeCmd_of_error he]
    exact congrArg _ (illegalCommand_dropped (commandsDropped_iff.2 hd))

/-- Settles O22, by the table of the command words and the meaning of NOP. -/
theorem nopChangesNothing : Obligations.NopChangesNothing := ⟨rfl, rfl, fun _ => rfl⟩

theorem exec_abort (s : State) : exec .abort s = .next (clearedState s) := rfl

theorem statusWord_clearedState (s : State) : statusWord (clearedState s) = 0#32 :=
  have hreset : statusWord (clearedState s) = statusWord State.reset := rfl
  hreset.trans (by decide)

theorem decode_abortWord : decode (.cmd 0x0000000F#32) = .ok .abort := rfl

/-- Settles O11, by the fields of the reset values. -/
theorem abortResets : Obligations.AbortResets := by
  intro s
  refine ⟨⟨clearedState s, exec_abort s, statusWord_clearedState s, by simp⟩, fun rest h => ?_⟩
  rcases h with h | h
  · exact step_of_act h
  · rw [step_writeCmd h, writeCmd_of_ok decode_abortWord]

/-! ## The phase transition -/

/-- The transition of R300's table. -/
theorem nextPhase_of_successor {q : Phase} (h : phaseSuccessor s.phase s.finalBlock = some q) :
    nextPhase s = { s with phase := q } := by
  rw [nextPhase]
  cases hp : s.phase <;> rw [hp] at h
  case encode | unrle =>
    rw [phaseSuccessor, ← apply_ite, Option.some.injEq] at h
    rw [← h]
  all_goals cases h
  all_goals rfl

theorem nextPhase_of_idle (h : s.phase = .idle) : nextPhase s = s := by
  rw [nextPhase, h]

theorem nextPhase_of_trailer (h : s.phase = .trailerC ∨ s.phase = .trailerD) :
    nextPhase s = endRun s := by
  rcases h with h | h <;> rw [nextPhase, h]

theorem exec_phaseNext (s : State) : exec .phaseNext s = .next (nextPhase s) := rfl

/-- Settles O24, by R300's table. -/
theorem phaseTransitions : Obligations.PhaseTransitions := by
  intro s
  rw [exec_phaseNext]
  exact ⟨fun q hq => by rw [nextPhase_of_successor hq], fun hp => by rw [nextPhase_of_idle hp],
    fun hp => congrArg _ (nextPhase_of_trailer hp), rfl⟩

end Sys2Proof.Machine
end

/-! PROOFS. The family `46_pipeline.md`, the phases at the ends of a stream: the magic sent and judged (O25, O26), and
the checksum sent and compared (O51). -/
section
namespace Sys2Proof.Machine

variable {s : State} {w : Word}

/-! ## HEADER_C (R301) -/

/-- The state after the statements of HEADER_C. -/
def magicPushed (s : State) : State :=
  { s with
    crc := crcStart, laValid := false, srcEod := false, l := 0#32, r := half, bo := 0#32
    bitOut := s.bitOut ++ wordBits (magicBase + s.level.zeroExtend 32) }

theorem headerCOp_of_fits (h : s.level.toNat ≤ s.par.maxLevel) :
    headerCOp s = .ok () (magicPushed s) := by
  have hfit : ¬ s.par.maxLevel < s.level.toNat := Nat.not_lt.2 h
  simp only [headerCOp, seq_bind, seq_get, if_neg hfit, crcInitOp_apply, seq_modify, encInitOp_apply]
  rfl

/-- A level above MAX_LEVEL raises RESOURCE before anything is written (R349). -/
theorem headerCOp_of_exceeds (h : s.par.maxLevel < s.level.toNat) :
    headerCOp s = .error (.raise .resource) s := by
  simp only [headerCOp, seq_bind, seq_get, if_pos h, raise_apply]

theorem exec_phaseHeaderC (s : State) : exec .phaseHeaderC s = performPhase headerCOp s := rfl

/-- Settles O25, by whether the level fits. -/
theorem headerCPushesTheMagic : Obligations.HeaderCPushesTheMagic := by
  intro s
  rw [← toNat_magicWord, ← wordBits_eq_testBit, exec_phaseHeaderC]
  exact ⟨fun h => performPhase_of_ok (headerCOp_of_fits h),
    fun h => performPhase_faulted (headerCOp_of_exceeds h)⟩

/-! ## The 32 bits of HEADER_D pulled (R310) -/

theorem pullWordBits_apply {bits rest : List Bool} (w : Word) (h : s.bitIn = bits ++ rest) :
    pullWordBits bits.length w s = .ok (bits.foldl shiftIn w) { s with bitIn := rest } := by
  induction bits generalizing w s with
  | nil =>
    rw [List.nil_append] at h
    rw [← h]
    rfl
  | cons b bits ih =>
    rw [List.length_cons, pullWordBits, seq_bind_of_ok (pullBit_cons h)]
    exact ih (shiftIn w b) (s := { s with bitIn := bits ++ rest }) rfl

/-- A source with too few bits stops the pulls once they are all pulled. -/
theorem pullWordBits_stops {k : Nat} (w : Word) (h : s.bitIn.length < k) :
    pullWordBits k w s = .error (bitStop s.bitInEod) { s with bitIn := [] } := by
  induction k generalizing w s with
  | zero => exact absurd h (Nat.not_lt_zero _)
  | succ k ih =>
    rw [pullWordBits, seq_bind]
    cases hb : s.bitIn with
    | nil =>
      have hsame : s = { s with bitIn := [] } := by rw [← hb]
      rw [pullBit_nil hb]
      exact congrArg _ hsame
    | cons b rest =>
      rw [hb, List.length_cons] at h
      rw [pullBit_cons hb]
      exact ih _ (s := { s with bitIn := rest }) (Nat.lt_of_succ_lt_succ h)

/-- The bits of a word taken in are the word. -/
theorem foldl_shiftIn_wordBits (w : Word) : (wordBits w).foldl shiftIn 0#32 = w := by
  have hbits : wordBits w = lowBits w 32 := rfl
  rw [foldl_shiftIn, BitVec.zero_mul, BitVec.zero_add, hbits, bitsValue_lowBits,
    Nat.mod_eq_of_lt w.isLt, BitVec.ofNat_toNat, BitVec.setWidth_eq]

theorem pullWordBits_wordBits {rest : List Bool} (h : s.bitIn = wordBits w ++ rest) :
    pullWordBits 32 0#32 s = .ok w { s with bitIn := rest } := by
  have hpull := pullWordBits_apply 0#32 h
  rwa [foldl_shiftIn_wordBits, show (wordBits w).length = 32 by simp [wordBits]] at hpull

/-! ## The magic judged (R310, R357) -/

/-- The words from 0x425A3031 to 0x425A3039 are the magic words of the levels 1 to 9 (R96). -/
theorem eq_magicWord_of_range (hlo : 0x425A3031 ≤ w.toNat) (hhi : w.toNat ≤ 0x425A3039) :
    (BitVec.ofNat 4 (w.toNat - 0x425A3030)).toNat = w.toNat - 0x425A3030 ∧
      levelOk (BitVec.ofNat 4 (w.toNat - 0x425A3030)) = true ∧
      w = magicBase + (BitVec.ofNat 4 (w.toNat - 0x425A3030)).zeroExtend 32 := by
  obtain ⟨hlevel, hok⟩ := level_of_nat (n := w.toNat - 0x425A3030) (by omega) (by omega)
  refine ⟨hlevel, hok, BitVec.eq_of_toNat_eq ?_⟩
  rw [toNat_magicWord, hlevel]
  omega

/-- LEVEL is written before it is compared with MAX_LEVEL. -/
theorem magicReceived_of_range (hlo : 0x425A3031 ≤ w.toNat) (hhi : w.toNat ≤ 0x425A3039) (s : State) :
    magicReceived w s =
      if s.par.maxLevel < w.toNat - 0x425A3030 then
        .error (.raise .resource) { s with level := BitVec.ofNat 4 (w.toNat - 0x425A3030) }
      else .ok () { s with level := BitVec.ofNat 4 (w.toNat - 0x425A3030) } := by
  obtain ⟨hlevel, hok, hw⟩ := eq_magicWord_of_range hlo hhi
  have hjudged := magicReceived_magicWord (BitVec.ofNat 4 (w.toNat - 0x425A3030)) s
  rwa [← hw, if_pos hok, hlevel] at hjudged

/-- Any other word fails one of the three checks, and each raises BAD_MAGIC (R342). -/
theorem magicReceived_of_not_range (hw : ¬ (0x425A3031 ≤ w.toNat ∧ w.toNat ≤ 0x425A3039)) (s : State) :
    magicReceived w s = .error (.raise .badMagic) s := by
  by_cases hbz : w.extractLsb' 24 8 ≠ 0x42#8 ∨ w.extractLsb' 16 8 ≠ 0x5A#8
  · simp only [magicReceived, if_pos hbz, seq_bind, raise_apply]
  by_cases hzero : w.extractLsb' 8 8 ≠ 0x30#8
  · simp only [magicReceived, if_neg hbz, if_pos hzero, seq_bind, raise_apply]
  have hdigit : w.extractLsb' 0 8 < 0x31#8 ∨ 0x39#8 < w.extractLsb' 0 8 := by
    by_contra hin
    simp only [not_or, not_not, BitVec.not_lt, BitVec.le_def] at hbz hzero hin
    obtain ⟨hmagic, hok⟩ := eq_magicWord hbz.1 hbz.2 hzero hin.1 hin.2
    have hlevel := levelOk_iff.1 hok
    have hnat := congrArg BitVec.toNat hmagic
    rw [toNat_magicWord] at hnat
    exact hw (by omega)
  simp only [magicReceived, if_neg hbz, if_neg hzero, if_pos hdigit, seq_bind, raise_apply]

/-! ## HEADER_D -/

/-- After a magic that is accepted only the decoder's start is left. -/
theorem headerDOp_of_accepted {rest : List Bool} (h : s.bitIn = wordBits w ++ rest)
    (hlo : 0x425A3031 ≤ w.toNat) (hhi : w.toNat ≤ 0x425A3039)
    (hfit : w.toNat - 0x425A3030 ≤ s.par.maxLevel) :
    headerDOp s = decStartOp { s with
      bitIn := rest, level := BitVec.ofNat 4 (w.toNat - 0x425A3030), crc := crcStart } := by
  have hjudged := (magicReceived_of_range hlo hhi { s with bitIn := rest }).trans
    (if_neg (Nat.not_lt.2 hfit))
  rw [headerDOp, seq_bind_of_ok (pullWordBits_wordBits h), seq_bind_of_ok hjudged,
    seq_bind_of_ok (crcInitOp_apply _)]

theorem headerDOp_of_raised {rest : List Bool} {f : FaultCode} {t : State}
    (h : s.bitIn = wordBits w ++ rest)
    (hjudged : magicReceived w { s with bitIn := rest } = .error (.raise f) t) :
    headerDOp s = .error (.raise f) t := by
  rw [headerDOp, seq_bind_of_ok (pullWordBits_wordBits h), seq_bind, hjudged]

theorem headerDOp_stops (h : s.bitIn.length < 32) :
    headerDOp s = .error (bitStop s.bitInEod) { s with bitIn := [] } := by
  rw [headerDOp, seq_bind, pullWordBits_stops _ h]

theorem exec_phaseHeaderD (s : State) : exec .phaseHeaderD s = performPhase headerDOp s := rfl

/-- A phase that runs out of bits: TRUNCATED after EOD, else a wait, which leaves the bits in the port. -/
theorem performPhase_of_bitStop {op : Seq Unit} {t : State} {eod : Bool}
    (h : op s = .error (bitStop eod) t) :
    performPhase op s = .next (if eod then faulted 0x11#8 t else s) := by
  cases eod with
  | true => exact performPhase_faulted h
  | false => exact perform_of_wait (by rw [seq_bind, h]; rfl)

/-- Settles O26, by where the bits end and how the magic is judged. -/
theorem headerDReadsTheMagic : Obligations.HeaderDReadsTheMagic := by
  intro s w
  simp only [exec_phaseHeaderD]
  refine ⟨fun prime rest h hlo hhi hfit => ?accepted, fun rest h => ⟨fun hw => ?bad, fun hlo hhi hbig => ?big⟩,
    fun h => ?short⟩
  case accepted =>
    rw [List.append_assoc] at h
    have hop := headerDOp_of_accepted h hlo hhi hfit
    have hstop (hprime : prime.length < 26) (hrest : rest = []) :=
      performPhase_of_bitStop (hop.trans (decStartOp_stops (by simpa [hrest] using hprime)))
    refine ⟨fun hprime => performPhase_of_ok (hop.trans (decStartOp_apply rfl hprime)),
      fun hprime hrest heod => ?_, fun hprime hrest heod => ?_⟩
    · rw [hstop hprime hrest, if_pos heod, hrest, List.append_nil]
      rfl
    · rw [hstop hprime hrest, if_neg (Bool.eq_false_iff.1 heod)]
  case bad => exact performPhase_faulted (headerDOp_of_raised h (magicReceived_of_not_range hw _))
  case big =>
    exact performPhase_faulted
      (headerDOp_of_raised h ((magicReceived_of_range hlo hhi _).trans (if_pos hbig)))
  case short =>
    rw [performPhase_of_bitStop (headerDOp_stops h)]
    exact ⟨fun heod => by rw [if_pos heod], fun heod => by rw [if_neg (Bool.eq_false_iff.1 heod)]⟩

/-! ## The trailers (R306, R315) -/

theorem trailerCOp_of_encoded {u : State} (h : encodeItems (wordItems (~~~ s.crc)) s = .ok () u) :
    trailerCOp s = .ok () (flushed u) := by
  rw [← putU32Op_eq] at h
  rw [trailerCOp, seq_bind_of_ok (crcFinalOp_apply s), seq_bind_of_ok h]
  exact encFlushOp_apply u

/-- Reading the stored word leaves CRC, so it is compared with the checksum of what was pushed. -/
theorem trailerDOp_of_decoded {u : State}
    (h : decodeItems [bogusModel, bogusModel, bogusModel, bogusModel] s =
      .ok ((wordItems w).map Prod.snd) u) :
    trailerDOp s = if w = ~~~ s.crc then .ok () u else .error (.raise .crcMismatch) u := by
  have hcrc : u.crc = s.crc := by rw [(coderLocal_decodeItems _).frame h, withCoder]
  rw [trailerDOp, seq_bind_of_ok (getU32Op_of_decodeItems h), crcReceived_apply, hcrc, ite_not]

theorem exec_phaseTrailerC (s : State) : exec .phaseTrailerC s = performPhase trailerCOp s := rfl

theorem exec_phaseTrailerD (s : State) : exec .phaseTrailerD s = performPhase trailerDOp s := rfl

/-- Settles O51, by the encoding of the four bytes and the flush, and by the comparison. -/
theorem trailersCarryTheChecksum : Obligations.TrailersCarryTheChecksum := by
  intro s
  refine ⟨fun hs henc => ?_, fun w u h => ?_⟩
  · obtain ⟨u, j, hop, -, -, hu⟩ :=
      encodeItems_within (items := wordItems (~~~ s.crc)) (k := 0) hs (itemOk_wordItems _) henc
    exact ⟨u, hop, hu.frame,
      (exec_phaseTrailerC s).trans (performPhase_of_ok (trailerCOp_of_encoded hop))⟩
  · have hop := trailerDOp_of_decoded h
    rw [exec_phaseTrailerD]
    by_cases hw : w = ~~~ s.crc
    · rw [if_pos hw] at hop ⊢
      exact performPhase_of_ok hop
    · rw [if_neg hw] at hop ⊢
      exact performPhase_faulted hop

end Sys2Proof.Machine
end

/-! PROOFS. The family `46_pipeline.md`, one run, one stream (O7): what FEED and an accepted command make of an input
port, what a step of the sequencer takes from one, and that a busy core was given a stream. -/
section
namespace Sys2Proof.Machine

variable {s t : State} {rest : List HostEvent} {eod : Bool}

/-! ## A command and a FEED, in either order (R297, R93) -/

theorem step_compress {w : Word} {lvl : BitVec 4} (hb : s.busy = false) (hf : s.fault = false)
    (hw : decode (.cmd w) = .ok (.compress lvl)) (h : s.host = .write 0 w :: rest) :
    step s = .next (acceptCompress lvl { s with host := rest }) := by
  obtain ⟨-, hlvl⟩ := encode_of_decode hw
  rw [step_writeCmd h, writeCmd_of_ok hw]
  exact exec_compress_accepted (commandsDropped_eq_false_iff.2 ⟨hb, hf⟩) hlvl

theorem step_decompress {w : Word} (hb : s.busy = false) (hf : s.fault = false)
    (hw : decode (.cmd w) = .ok .decompress) (h : s.host = .write 0 w :: rest) :
    step s = .next (acceptDecompress { s with host := rest }) := by
  rw [step_writeCmd h, writeCmd_of_ok hw]
  exact exec_decompress_accepted (commandsDropped_eq_false_iff.2 ⟨hb, hf⟩)

theorem step_feedBytes {bytes : List Byte} (h : s.host = .feedBytes bytes eod :: rest) :
    step s = .next (feedByteIn bytes eod { s with host := rest }) := step_of_act h

theorem step_feedBits {bits : List Bool} (h : s.host = .feedBits bits eod :: rest) :
    step s = .next (feedBitIn bits eod { s with host := rest }) := step_of_act h

/-- Nothing at BYTE_IN is for the next run: an earlier run was given the stream in front, or none is there. -/
def ByteInFresh (s : State) : Prop :=
  s.byteInLater = [] ∧ (s.byteInGiven = true ∨ s.byteIn = [] ∧ s.byteInEod = false)

/-- Nothing at BIT_IN is for the next run. -/
def BitInFresh (s : State) : Prop :=
  s.bitInLater = [] ∧ (s.bitInGiven = true ∨ s.bitIn = [] ∧ s.bitInEod = false)

/-- BYTE_IN holds exactly the items fed. -/
def HoldsBytes (bytes : List Byte) (eod : Bool) (s : State) : Prop :=
  s.byteIn = bytes ∧ s.byteInEod = eod ∧ s.byteInLater = []

/-- BIT_IN holds exactly the items fed. -/
def HoldsBits (bits : List Bool) (eod : Bool) (s : State) : Prop :=
  s.bitIn = bits ∧ s.bitInEod = eod ∧ s.bitInLater = []

/-- The stream of the run that was just accepted takes the items. -/
theorem holdsBytes_fed_after_compress (h : ByteInFresh s) (lvl : BitVec 4) (bytes : List Byte) (eod : Bool) :
    HoldsBytes bytes eod (feedByteIn bytes eod (acceptCompress lvl s)) := by
  obtain ⟨hlater, hgiven | ⟨hin, heod⟩⟩ := h
  · simp [HoldsBytes, byteStreamClosed, hlater, hgiven, nextSupply_nil]
  · cases hg : s.byteInGiven <;> simp [HoldsBytes, byteStreamClosed, hlater, hin, heod, hg, nextSupply_nil]

/-- Items fed while no run is on wait for the next one. -/
theorem holdsBytes_compress_after_fed (h : ByteInFresh s) (hb : s.busy = false) (lvl : BitVec 4)
    (bytes : List Byte) (eod : Bool) :
    HoldsBytes bytes eod (acceptCompress lvl (feedByteIn bytes eod s)) := by
  obtain ⟨hlater, h⟩ := h
  cases hg : s.byteInGiven with
  | true => simp [HoldsBytes, byteStreamClosed, hlater, hg, hb, supplyLater_nil, nextSupply_cons]
  | false =>
    obtain ⟨hin, heod⟩ := h.resolve_left (by simp [hg])
    simp [HoldsBytes, byteStreamClosed, hlater, hin, heod, hg]

theorem holdsBits_fed_after_decompress (h : BitInFresh s) (bits : List Bool) (eod : Bool) :
    HoldsBits bits eod (feedBitIn bits eod (acceptDecompress s)) := by
  obtain ⟨hlater, hgiven | ⟨hin, heod⟩⟩ := h
  · simp [HoldsBits, bitStreamClosed, hlater, hgiven, nextSupply_nil]
  · cases hg : s.bitInGiven <;> simp [HoldsBits, bitStreamClosed, hlater, hin, heod, hg, nextSupply_nil]

theorem holdsBits_decompress_after_fed (h : BitInFresh s) (hb : s.busy = false) (bits : List Bool)
    (eod : Bool) : HoldsBits bits eod (acceptDecompress (feedBitIn bits eod s)) := by
  obtain ⟨hlater, h⟩ := h
  cases hg : s.bitInGiven with
  | true => simp [HoldsBits, bitStreamClosed, hlater, hg, hb, supplyLater_nil, nextSupply_cons]
  | false =>
    obtain ⟨hin, heod⟩ := h.resolve_left (by simp [hg])
    simp [HoldsBits, bitStreamClosed, hlater, hin, heod, hg]

/-- A compress run is given the bytes fed for it. -/
theorem compress_finds_fed {w : Word} {lvl : BitVec 4} {bytes : List Byte} (hb : s.busy = false)
    (hf : s.fault = false) (hw : decode (.cmd w) = .ok (.compress lvl)) (hfresh : ByteInFresh s)
    (h : s.host = .write 0 w :: .feedBytes bytes eod :: rest ∨
      s.host = .feedBytes bytes eod :: .write 0 w :: rest) :
    ∃ t u, step s = .next t ∧ step t = .next u ∧ u.busy = true ∧ u.mode = .compress ∧
      HoldsBytes bytes eod u ∧ u.host = rest := by
  rcases h with h | h
  · exact ⟨_, _, step_compress hb hf hw h, step_feedBytes rfl, rfl, rfl,
      holdsBytes_fed_after_compress (s := { s with host := rest }) hfresh lvl bytes eod, rfl⟩
  · exact ⟨_, _, step_feedBytes h, step_compress hb hf hw rfl, rfl, rfl,
      holdsBytes_compress_after_fed (s := { s with host := rest }) hfresh hb lvl bytes eod, rfl⟩

/-- A decompress run is given the bits fed for it. -/
theorem decompress_finds_fed {w : Word} {bits : List Bool} (hb : s.busy = false) (hf : s.fault = false)
    (hw : decode (.cmd w) = .ok .decompress) (hfresh : BitInFresh s)
    (h : s.host = .write 0 w :: .feedBits bits eod :: rest ∨
      s.host = .feedBits bits eod :: .write 0 w :: rest) :
    ∃ t u, step s = .next t ∧ step t = .next u ∧ u.busy = true ∧ u.mode = .decompress ∧
      HoldsBits bits eod u ∧ u.host = rest := by
  rcases h with h | h
  · exact ⟨_, _, step_decompress hb hf hw h, step_feedBits rfl, rfl, rfl,
      holdsBits_fed_after_decompress (s := { s with host := rest }) hfresh bits eod, rfl⟩
  · exact ⟨_, _, step_feedBits h, step_decompress hb hf hw rfl, rfl, rfl,
      holdsBits_decompress_after_fed (s := { s with host := rest }) hfresh hb bits eod, rfl⟩

/-! ## Where a FEED goes -/

theorem byteStream_open_iff :
    s.byteInEod = false ∧ (s.byteInGiven = false ∨ s.busy = true ∧ s.mode = .compress) ↔
      ¬ byteStreamClosed s = true := by
  simp only [byteStreamClosed_iff, not_or, not_and_or, Bool.not_eq_true, Bool.not_eq_false, not_not]

theorem bitStream_open_iff :
    s.bitInEod = false ∧ (s.bitInGiven = false ∨ s.busy = true ∧ s.mode = .decompress) ↔
      ¬ bitStreamClosed s = true := by
  simp only [bitStreamClosed_iff, not_or, not_and_or, Bool.not_eq_true, Bool.not_eq_false, not_not]

theorem feedByteIn_joins_or_waits (bytes : List Byte) (eod : Bool) (s : State) :
    if s.byteInEod = false ∧ (s.byteInGiven = false ∨ s.busy = true ∧ s.mode = .compress) then
      (feedByteIn bytes eod s).byteIn = s.byteIn ++ bytes ∧ (feedByteIn bytes eod s).byteInEod = eod ∧
        (feedByteIn bytes eod s).byteInLater = s.byteInLater
    else (feedByteIn bytes eod s).byteIn = s.byteIn ∧ (feedByteIn bytes eod s).byteInEod = s.byteInEod ∧
      ((feedByteIn bytes eod s).byteInLater.map Prod.fst).flatten =
        (s.byteInLater.map Prod.fst).flatten ++ bytes := by
  cases hclosed : byteStreamClosed s with
  | false =>
    rw [if_pos (byteStream_open_iff.2 (by simp [hclosed]))]
    simp [hclosed]
  | true =>
    rw [if_neg (byteStream_open_iff.not.2 (by simp [hclosed]))]
    simp [hclosed, supplyLater_items]

theorem feedBitIn_joins_or_waits (bits : List Bool) (eod : Bool) (s : State) :
    if s.bitInEod = false ∧ (s.bitInGiven = false ∨ s.busy = true ∧ s.mode = .decompress) then
      (feedBitIn bits eod s).bitIn = s.bitIn ++ bits ∧ (feedBitIn bits eod s).bitInEod = eod ∧
        (feedBitIn bits eod s).bitInLater = s.bitInLater
    else (feedBitIn bits eod s).bitIn = s.bitIn ∧ (feedBitIn bits eod s).bitInEod = s.bitInEod ∧
      ((feedBitIn bits eod s).bitInLater.map Prod.fst).flatten =
        (s.bitInLater.map Prod.fst).flatten ++ bits := by
  cases hclosed : bitStreamClosed s with
  | false =>
    rw [if_pos (bitStream_open_iff.2 (by simp [hclosed]))]
    simp [hclosed]
  | true =>
    rw [if_neg (bitStream_open_iff.not.2 (by simp [hclosed]))]
    simp [hclosed, supplyLater_items]

/-! ## What a step of the sequencer takes -/

/-- `t` has the input ports of `s` but for items taken from the front (R63). -/
def TakesFromFront (s t : State) : Prop :=
  t.byteIn <:+ s.byteIn ∧ t.byteInEod = s.byteInEod ∧ t.byteInLater = s.byteInLater ∧
    t.bitIn <:+ s.bitIn ∧ t.bitInEod = s.bitInEod ∧ t.bitInLater = s.bitInLater

theorem TakesFromFront.refl (s : State) : TakesFromFront s s :=
  ⟨List.suffix_rfl, rfl, rfl, List.suffix_rfl, rfl, rfl⟩

theorem stable_takesFromFront (s : State) : Stable (TakesFromFront s) := by
  intro t u hu ht
  obtain ⟨hbytes, hbyteEod, hbyteLater, hbits, hbitEod, hbitLater⟩ := ht
  cases hu with
  | pullByte b rest crc h =>
    have hpulled : rest <:+ t.byteIn := h ▸ List.suffix_cons b rest
    exact ⟨hpulled.trans hbytes, hbyteEod, hbyteLater, hbits, hbitEod, hbitLater⟩
  | pullBit b rest h =>
    have hpulled : rest <:+ t.bitIn := h ▸ List.suffix_cons b rest
    exact ⟨hbytes, hbyteEod, hbyteLater, hpulled.trans hbits, hbitEod, hbitLater⟩
  | _ => exact ⟨hbytes, hbyteEod, hbyteLater, hbits, hbitEod, hbitLater⟩

theorem TakesFromFront.nextPhase (h : TakesFromFront s t) : TakesFromFront s (nextPhase t) := by
  rcases nextPhase_cases t with hn | ⟨p, -, hn⟩ | hn <;> rw [hn] <;> exact h

theorem phase_takesFromFront {p : Phase} (h : exec (phaseInstr p) s = .next t) : TakesFromFront s t := by
  by_cases hidle : p = .idle
  · subst hidle
    cases h
    exact .refl s
  · rw [exec_phaseInstr hidle] at h
    have hop : Preserves (TakesFromFront s) (do phaseOp p; modify Machine.nextPhase) :=
      .bind ((stable_takesFromFront s).preserves_phaseOp p) fun _ =>
        .modify fun _ => TakesFromFront.nextPhase
    exact perform_keeps hop.keeps (fun _ _ hu => hu) (.refl s) h

theorem sequencerStep_takesFromFront (hlatch : s.latch = none) (h : sequencerStep s = .next t) :
    TakesFromFront s t := by
  cases hf : s.fault with
  | true =>
    rw [sequencerStep_of_fault hf] at h
    cases h
    exact .refl s
  | false =>
    rw [sequencerStep_of_latch_none hf hlatch] at h
    exact phase_takesFromFront h

/-! ## A busy core was given a stream -/

theorem stable_streamsGiven : Stable streamsGiven := by
  intro s t hu h
  cases hu <;> exact h

theorem streamsGiven_of_not_busy (h : s.busy = false) : streamsGiven s := by simp [streamsGiven, h]

theorem performed_streamsGiven (h : Performed s t) (hs : streamsGiven s) : streamsGiven t := by
  cases h with
  | operates h => exact h.keeps stable_streamsGiven hs
  | faults f hf h => exact streamsGiven_of_not_busy rfl
  | @endsPhase u hf h =>
    have hu := h.keeps stable_streamsGiven hs
    rcases nextPhase_cases u with hn | ⟨p, -, hn⟩ | hn <;> rw [hn]
    · exact hu
    · exact hu
    · exact streamsGiven_of_not_busy rfl
  | endsRun hf => exact streamsGiven_of_not_busy rfl
  | compress lvl h => exact ⟨fun _ _ => rfl, nofun⟩
  | decompress h => exact ⟨nofun, fun _ _ => rfl⟩
  | aborts hf => exact streamsGiven_of_not_busy rfl

theorem sequencerStep_streamsGiven (hs : streamsGiven s) (h : sequencerStep s = .next t) :
    streamsGiven t := by
  obtain ⟨latch, hp⟩ := sequencerStep_performed h
  exact performed_streamsGiven hp hs

theorem writeCmd_streamsGiven {w : Word} (hs : streamsGiven s) (h : writeCmd w s = .next t) :
    streamsGiven t := by
  rcases writeCmd_cases h with hp | ⟨-, rfl⟩
  · exact performed_streamsGiven hp hs
  · exact streamsGiven_of_not_busy rfl

/-- No act beside the commands writes BUSY, MODE or the marks of the streams given. -/
theorem hostAct_streamsGiven {e : HostEvent} (hs : streamsGiven s)
    (h : hostAct e s { s with host := rest } = .next t) : streamsGiven t := by
  cases e with
  | write reg w =>
    simp only [hostAct, hostWrite] at h
    split at h
    · exact writeCmd_streamsGiven (s := { s with host := rest }) hs h
    · cases h
      exact hs
  | abortAfter k =>
    obtain ⟨u, rfl⟩ := abortDuring_cleared h
    exact streamsGiven_of_not_busy rfl
  | read reg =>
    cases h
    rw [hostRead_frame]
    exact hs
  | feedBytes | feedBits | dropInput => cases h; exact hs
  | wait =>
    simp only [hostAct] at h
    split at h
    · exact sequencerStep_streamsGiven hs h
    · cases h
      exact hs
  | gap => exact sequencerStep_streamsGiven (s := { s with host := rest }) hs h
  | reset => cases h; exact streamsGiven_of_not_busy rfl

theorem step_streamsGiven (hs : streamsGiven s) (h : step s = .next t) : streamsGiven t := by
  cases hh : s.host with
  | nil => exact sequencerStep_streamsGiven hs (step_of_no_act hh ▸ h)
  | cons e rest => exact hostAct_streamsGiven hs (step_of_act hh ▸ h)

/-- Settles O7, by what commands, FEED and the sequencer do to an input port. -/
theorem oneRunOneStream : Obligations.OneRunOneStream := by
  intro s rest
  refine ⟨fun hb hf => ⟨fun w lvl bytes eod hw hlater hgiven h => ?compress,
    fun w bits eod hw hlater hgiven h => ?decompress⟩, fun bytes eod h => ?bytes, fun bits eod h => ?bits,
    fun t hh hlatch h => ?takes, fun t hs h => step_streamsGiven hs h⟩
  case compress =>
    obtain ⟨t, u, ht, hu, hbusy, hmode, ⟨hin, heod, hnext⟩, hhost⟩ :=
      compress_finds_fed hb hf hw ⟨hlater, hgiven⟩ h
    exact ⟨t, u, ht, hu, hbusy, hmode, hin, heod, hnext, hhost⟩
  case decompress =>
    obtain ⟨t, u, ht, hu, hbusy, hmode, ⟨hin, heod, hnext⟩, hhost⟩ :=
      decompress_finds_fed hb hf hw ⟨hlater, hgiven⟩ h
    exact ⟨t, u, ht, hu, hbusy, hmode, hin, heod, hnext, hhost⟩
  case bytes => exact ⟨_, step_feedBytes h, rfl, feedByteIn_joins_or_waits _ _ { s with host := rest }⟩
  case bits => exact ⟨_, step_feedBits h, rfl, feedBitIn_joins_or_waits _ _ { s with host := rest }⟩
  case takes => exact sequencerStep_takesFromFront hlatch (step_of_no_act hh ▸ h)

end Sys2Proof.Machine
end

/-! PROOFS. The family `46_pipeline.md`, what an operation sees of the acts of the host still to come: nothing.
`HostBlind` says so of one operation, and `AlikeUnder` of the two runs of a part that uses what was read before. -/
section
namespace Sys2Proof.Machine

variable {α β : Type}

/-- `s` with other acts of the host and the environment still to come. -/
abbrev withHost (h : List HostEvent) (s : State) : State := { s with host := h }

/-- With the acts `h` still to come `x` does what `y` does without them, and it leaves them. -/
structure AlikeUnder (h : List HostEvent) (x y : Seq α) : Prop where
  run : ∀ s, x (withHost h s) = onState (withHost h) (y s)

/-- `op` does the same whatever the host's acts to come are. -/
abbrev HostBlind (h : List HostEvent) (op : Seq α) : Prop := AlikeUnder h op op

variable {h : List HostEvent}

namespace AlikeUnder

/-! ## Statement forms -/

theorem pure (a : α) : HostBlind h (pure a) := ⟨fun _ => rfl⟩

theorem throw (e : Stop) : AlikeUnder h (throw e : Seq α) (throw e) := ⟨fun _ => rfl⟩

theorem bind {x x' : Seq α} {f f' : α → Seq β} (hx : AlikeUnder h x x')
    (hf : ∀ a, AlikeUnder h (f a) (f' a)) : AlikeUnder h (x >>= f) (x' >>= f') := by
  refine ⟨fun s => ?_⟩
  rw [seq_bind, seq_bind, hx.run]
  cases x' s with
  | ok a t => exact (hf a).run t
  | error e t => rfl

/-- The rest may use of the state that was read whatever is alike. -/
theorem get {f f' : State → Seq β} (hf : ∀ s, AlikeUnder h (f (withHost h s)) (f' s)) :
    AlikeUnder h ((get : Seq State) >>= f) (get >>= f') := by
  refine ⟨fun s => ?_⟩
  rw [seq_bind_of_ok (seq_get _), seq_bind_of_ok (seq_get _)]
  exact (hf s).run s

theorem set (t : State) : AlikeUnder h (set (withHost h t) : Seq Unit) (set t) := ⟨fun _ => rfl⟩

theorem modify {f : State → State} (hf : ∀ s, f (withHost h s) = withHost h (f s)) :
    AlikeUnder h (modify f : Seq Unit) (modify f) := by
  refine ⟨fun s => ?_⟩
  rw [seq_modify, seq_modify, hf, onState]

theorem ite {c : Prop} [Decidable c] {x x' y y' : Seq α} (hx : AlikeUnder h x x')
    (hy : AlikeUnder h y y') : AlikeUnder h (if c then x else y) (if c then x' else y') := by
  split
  · exact hx
  · exact hy

/-- A check in the middle of an operation: `if c then x; rest`. -/
theorem check {c : Prop} [Decidable c] {x x' : Seq Unit} {f f' : Unit → Seq β} (hx : AlikeUnder h x x')
    (hf : AlikeUnder h (f ()) (f' ())) :
    AlikeUnder h (if c then x >>= f else f ()) (if c then x' >>= f' else f' ()) :=
  .ite (.bind hx fun _ => hf) hf

theorem loopUp {body body' : Nat → Seq Unit} (hb : ∀ i, AlikeUnder h (body i) (body' i)) :
    ∀ k i, AlikeUnder h (loopUp body i k) (loopUp body' i k)
  | 0, _ => .pure ()
  | k + 1, i => .bind (hb i) fun _ => loopUp hb k (i + 1)

theorem loopDown {body body' : Nat → Seq Unit} (hb : ∀ i, AlikeUnder h (body i) (body' i)) :
    ∀ k, AlikeUnder h (loopDown body k) (loopDown body' k)
  | 0 => .pure ()
  | k + 1 => .bind (hb k) fun _ => loopDown hb k

theorem repeatTimes {body body' : Seq Unit} (hb : AlikeUnder h body body') :
    ∀ k, AlikeUnder h (repeatTimes body k) (repeatTimes body' k)
  | 0 => .pure ()
  | k + 1 => .bind hb fun _ => repeatTimes hb k

theorem sendOrReceive {x y : Seq Unit} (hx : HostBlind h x) (hy : HostBlind h y) :
    HostBlind h (sendOrReceive x y) :=
  .get fun _ => .ite hy hx

/-- The host's side is none of the coder's. -/
theorem of_coderLocal {op : Seq α} (hop : CoderLocal op) : HostBlind h op := by
  refine ⟨fun s => ?_⟩
  have hself : op s = onState (withCoder s) (op s) := hop.beside s s rfl
  have hbeside : op (withHost h s) = onState (withCoder (withHost h s)) (op s) :=
    hop.beside (withHost h s) s rfl
  rw [hbeside]
  cases hs : op s with
  | ok a t =>
    rw [hs, onState, EStateM.Result.ok.injEq] at hself
    rw [onState, onState, hself.2]
    rfl
  | error e t =>
    rw [hs, onState, EStateM.Result.error.injEq] at hself
    rw [onState, onState, hself.2]
    rfl

/-! ## Arrays -/

theorem checkIndex (i size : Nat) : HostBlind h (checkIndex i size) :=
  .ite (.pure ()) (.throw _)

theorem readBlock (i : Nat) : HostBlind h (readBlock i) :=
  .get fun _ => .bind (.checkIndex ..) fun _ => .pure _

theorem writeBlock (i : Nat) (v : Byte) : HostBlind h (writeBlock i v) :=
  .get fun _ => .bind (.checkIndex ..) fun _ => .modify fun _ => rfl

theorem readZptr (i : Nat) : HostBlind h (readZptr i) :=
  .get fun _ => .bind (.checkIndex ..) fun _ => .pure _

theorem writeZptr (i : Nat) (v : Word) : HostBlind h (writeZptr i v) :=
  .get fun _ => .bind (.checkIndex ..) fun _ => .modify fun _ => rfl

theorem readLl (i : Nat) : HostBlind h (readLl i) :=
  .get fun _ => .bind (.checkIndex ..) fun _ => .pure _

theorem writeLl (i : Nat) (v : Byte) : HostBlind h (writeLl i v) :=
  .get fun _ => .bind (.checkIndex ..) fun _ => .modify fun _ => rfl

theorem readNext (i : Nat) : HostBlind h (readNext i) :=
  .get fun _ => .bind (.checkIndex ..) fun _ => .pure _

theorem writeNext (i : Nat) (v : Word) : HostBlind h (writeNext i v) :=
  .get fun _ => .bind (.checkIndex ..) fun _ => .modify fun _ => rfl

theorem readFtab (i : Nat) : HostBlind h (readFtab i) :=
  .bind (.checkIndex ..) fun _ => .get fun _ => .pure _

theorem writeFtab (i : Nat) (v : Word) : HostBlind h (writeFtab i v) :=
  .bind (.checkIndex ..) fun _ => .modify fun _ => rfl

theorem readCc (b : Byte) : HostBlind h (readCc b) := .get fun _ => .pure _

theorem writeCc (b : Byte) (v : Word) : HostBlind h (writeCc b v) := .modify fun _ => rfl

/-! ## Ports and checksum -/

theorem crcInitOp : HostBlind h crcInitOp := .modify fun _ => rfl

theorem crcFinalOp : HostBlind h crcFinalOp := .get fun _ => .pure _

theorem pullByte : HostBlind h pullByte :=
  .get fun s => by
    have hin : (withHost h s).byteIn = s.byteIn := rfl
    rw [hin]
    cases s.byteIn with
    | nil => exact .ite (.pure _) (.throw _)
    | cons b rest => exact .bind (.set { s with byteIn := rest, crc := crcNext s.crc b }) fun _ => .pure _

theorem pushBits (bits : List Bool) : HostBlind h (pushBits bits) := .modify fun _ => rfl

theorem pushByte (b : Byte) : HostBlind h (pushByte b) := .modify fun _ => rfl

theorem pullBit : HostBlind h pullBit := .of_coderLocal coderLocal_pullBit

theorem pullWordBits : ∀ k w, HostBlind h (pullWordBits k w)
  | 0, _ => .pure _
  | k + 1, _ => .bind .pullBit fun _ => pullWordBits k _

/-! ## Coder -/

theorem initAllModels : HostBlind h initAllModels := .modify fun _ => rfl

theorem encodeOp (m : ModelId) (sym : Nat) : HostBlind h (encodeOp m sym) :=
  .of_coderLocal (coderLocal_encodeOp m sym)

theorem decodeOp (m : ModelId) : HostBlind h (decodeOp m) :=
  .of_coderLocal (coderLocal_decodeOp m)

theorem bitPlusFollowOp (b : Bool) : HostBlind h (bitPlusFollowOp b) := .modify fun _ => rfl

theorem encFlushOp : HostBlind h encFlushOp := by
  unfold Machine.encFlushOp
  exact .loopDown (fun _ => .get fun _ => .bitPlusFollowOp _) _

theorem decStartOp : HostBlind h decStartOp := by
  unfold Machine.decStartOp
  refine .bind (.modify fun _ => rfl) fun _ => .loopUp (fun _ => ?_) _ _
  exact .bind .pullBit fun _ => .modify fun _ => rfl

theorem putU32Op (w : Word) : HostBlind h (putU32Op w) :=
  .bind (.encodeOp ..) fun _ => .bind (.encodeOp ..) fun _ => .bind (.encodeOp ..) fun _ => .encodeOp ..

theorem getU32Op : HostBlind h getU32Op :=
  have hget : HostBlind h getU8Op := .bind (.decodeOp _) fun _ => .pure _
  .bind hget fun _ => .bind hget fun _ => .bind hget fun _ => .bind hget fun _ => .pure _

/-! ## The move-to-front codec -/

theorem mtfInitOp : HostBlind h mtfInitOp := .modify fun _ => rfl

theorem mtfRankOp (b : Byte) : HostBlind h (mtfRankOp b) :=
  .get fun s => .bind (.checkIndex ..) fun _ =>
    .bind (.set { s with yy := moveToFront s.yy (s.yy.idxOf b) b }) fun _ => .pure _

theorem mtfTakeOp (v : Nat) : HostBlind h (mtfTakeOp v) :=
  .get fun s => .bind (.checkIndex ..) fun _ =>
    .bind (.set { s with yy := moveToFront s.yy v (s.yy.getD v 0#8) }) fun _ => .pure _

theorem sendDigits : ∀ digits, HostBlind h (sendDigits digits)
  | [] => .pure _
  | _ :: rest => .bind (.encodeOp ..) fun _ => sendDigits rest

theorem sendValOp (v : Nat) : HostBlind h (sendValOp v) :=
  .ite (.throw _) <| .ite (.encodeOp ..) <| .bind (.encodeOp ..) fun _ => .encodeOp ..

theorem flushZpOp : HostBlind h flushZpOp :=
  .get fun _ => .bind (.sendDigits _) fun _ => .modify fun _ => rfl

theorem lastColumn (k : Nat) : HostBlind h (lastColumn k) :=
  .get fun _ => .bind (.readZptr _) fun _ => .readBlock _

theorem encodePass (k : Nat) : HostBlind h (encodePass k) :=
  .bind (.lastColumn k) fun _ => .bind (.mtfRankOp _) fun _ => .ite (.modify fun _ => rfl) <|
    .bind .flushZpOp fun _ => .sendValOp _

theorem encodeBlockOp : HostBlind h encodeBlockOp :=
  .bind .initAllModels fun _ => .bind .mtfInitOp fun _ => .bind (.modify fun _ => rfl) fun _ =>
    .get fun _ => .bind (.putU32Op _) fun _ => .bind (.loopUp .encodePass _ _) fun _ =>
      .bind .flushZpOp fun _ => .encodeOp ..

theorem absorbOp (d : RunDigit) : HostBlind h (absorbOp d) :=
  .bind (.modify fun _ => rfl) fun _ => .get fun _ => .ite (.throw _) (.pure _)

theorem appendLl (b : Byte) : HostBlind h (appendLl b) :=
  .get fun _ => .bind (.writeLl ..) fun _ => .modify fun _ => rfl

theorem flushRunOp : HostBlind h flushRunOp :=
  .get fun _ => .ite (.pure _) <| .bind (.repeatTimes (.appendLl _) _) fun _ => .modify fun _ => rfl

theorem storeValueOp (v : Nat) : HostBlind h (storeValueOp v) := by
  unfold Machine.storeValueOp
  exact .get fun _ => .check (.throw _) (.bind (.mtfTakeOp v) fun _ => .appendLl _)

theorem basisReceived (sym : Nat) : HostBlind h (basisReceived sym) :=
  .ite (.bind (.absorbOp _) fun _ => .pure _) <| .ite (.bind (.absorbOp _) fun _ => .pure _) <|
    .bind .flushRunOp fun _ => .ite (.pure _) <|
      .ite (.bind (.storeValueOp _) fun _ => .pure _) <|
        .bind (.decodeOp _) fun _ => .bind (.storeValueOp _) fun _ => .pure _

theorem decodeLoop : ∀ fuel, HostBlind h (decodeLoop fuel)
  | 0 => .throw _
  | fuel + 1 => .bind (.decodeOp _) fun _ => .bind (.basisReceived _) fun _ =>
      .ite (.pure _) (decodeLoop fuel)

theorem origwordReceived (w : Word) : HostBlind h (origwordReceived w) :=
  .bind (.modify fun _ => rfl) fun _ => .pure _

theorem checkOrigptrOp (mag : Word) : HostBlind h (checkOrigptrOp mag) :=
  .get fun _ => .ite (.throw _) (.modify fun _ => rfl)

theorem decodeBlockOp : HostBlind h decodeBlockOp :=
  .bind .initAllModels fun _ => .bind .mtfInitOp fun _ => .bind (.modify fun _ => rfl) fun _ =>
    .bind .getU32Op fun _ => .bind (.origwordReceived _) fun _ => .get fun _ =>
      .bind (.decodeLoop _) fun _ => .bind (.modify fun _ => rfl) fun _ => .checkOrigptrOp _

/-! ## The block sorter -/

theorem trivialGtOp (a b : Word) : HostBlind h (trivialGtOp a b) :=
  .get fun _ => .bind (.checkIndex ..) fun _ => .pure _

theorem fullGtOp (a b : Word) : HostBlind h (fullGtOp a b) :=
  .get fun _ => .bind (.checkIndex ..) fun _ => .bind (.checkIndex ..) fun _ =>
    .bind (.checkIndex ..) fun _ => .pure _

theorem shellSink (k : Nat) (v : Word) : ∀ fuel j,
    HostBlind h (shellSink k v fuel j)
  | 0, _ => .throw _
  | fuel + 1, j => .ite (.bind (.readZptr _) fun _ => .bind (.trivialGtOp ..) fun _ =>
      .ite (.bind (.writeZptr ..) fun _ => shellSink k v fuel (j - k)) (.pure _)) (.pure _)

theorem shellStep (k i : Nat) : HostBlind h (shellStep k i) :=
  .bind (.readZptr _) fun v => .bind (.shellSink k v _ _) fun _ => .writeZptr ..

theorem shellPasses (n : Nat) : ∀ increments,
    HostBlind h (shellPasses n increments)
  | [] => .pure _
  | k :: rest => by
    rw [Machine.shellPasses]
    exact .check (.loopUp (.shellStep k) _ _) (shellPasses n rest)

theorem smallSortOp : HostBlind h smallSortOp :=
  .get fun _ => .bind (.loopUp (fun _ => .writeZptr ..) _ _) fun _ => .shellPasses ..

theorem buildPadOp : HostBlind h buildPadOp :=
  .get fun _ => .loopUp (fun _ => .bind (.readBlock _) fun _ => .writeBlock ..) _ _

theorem median3Op (a b c : Word) : HostBlind h (median3Op a b c) :=
  .bind (.fullGtOp ..) fun _ => .bind (.fullGtOp ..) fun _ =>
    .ite (.bind (.fullGtOp ..) fun _ => .pure _) (.pure _)

theorem scanUp (p : Word) : ∀ fuel i, HostBlind h (scanUp p fuel i)
  | 0, _ => .throw _
  | fuel + 1, i => .bind (.readZptr _) fun _ => .bind (.fullGtOp ..) fun _ =>
      .ite (scanUp p fuel (i + 1)) (.pure _)

theorem scanDown (p : Word) : ∀ j, HostBlind h (scanDown p j)
  | 0 => .bind (.readZptr _) fun _ => .bind (.fullGtOp ..) fun _ => .ite (.throw _) (.pure _)
  | j + 1 => .bind (.readZptr _) fun _ => .bind (.fullGtOp ..) fun _ => .ite (scanDown p j) (.pure _)

theorem exchangeZptr (i j : Nat) : HostBlind h (exchangeZptr i j) :=
  .bind (.readZptr _) fun _ => .bind (.readZptr _) fun _ => .bind (.writeZptr ..) fun _ => .writeZptr ..

theorem partitionLoop (p : Word) : ∀ fuel i j,
    HostBlind h (partitionLoop p fuel i j)
  | 0, _, _ => .throw _
  | fuel + 1, _, _ => .get fun _ => .bind (.scanUp p _ _) fun i => .bind (.scanDown p _) fun j =>
      .ite (.bind (.exchangeZptr i j) fun _ => .ite (partitionLoop p fuel (i + 1) (j - 1)) (.pure _))
        (.pure _)

theorem insertSink (lo : Nat) (v : Word) : ∀ j, HostBlind h (insertSink lo v j)
  | 0 => .pure _
  | j + 1 => .ite (.bind (.readZptr _) fun _ => .bind (.fullGtOp ..) fun _ =>
      .ite (.bind (.writeZptr ..) fun _ => insertSink lo v j) (.pure _)) (.pure _)

theorem insertStep (lo i : Nat) : HostBlind h (insertStep lo i) :=
  .bind (.readZptr _) fun v => .bind (.insertSink lo v i) fun _ => .writeZptr ..

theorem pushRange (first second : Int) : HostBlind h (pushRange first second) :=
  .ite (.modify fun _ => rfl) (.pure _)

theorem qsortRange (lo hi : Word) : HostBlind h (qsortRange lo hi) :=
  .ite (.loopUp (.insertStep _) _ _) <| .bind (.readZptr _) fun _ => .bind (.readZptr _) fun _ =>
    .bind (.readZptr _) fun _ => .bind (.median3Op ..) fun _ => .bind (.partitionLoop ..) fun _ =>
      .ite (.bind (.pushRange ..) fun _ => .pushRange ..) (.bind (.pushRange ..) fun _ => .pushRange ..)

theorem qsortLoop : ∀ fuel, HostBlind h (qsortLoop fuel)
  | 0 => .throw _
  | fuel + 1 => .get fun s => by
      have hstack : (withHost h s).qstack = s.qstack := rfl
      rw [hstack]
      cases s.qstack with
      | nil => exact .pure _
      | cons range rest =>
        exact .bind (.set { s with qstack := rest }) fun _ => .bind (.qsortRange range.1 range.2) fun _ =>
          qsortLoop fuel

theorem qsortOp (lo hi : Word) : HostBlind h (qsortOp lo hi) :=
  .bind (.modify fun _ => rfl) fun _ => .get fun _ => .qsortLoop _

theorem pairOp (i : Nat) : HostBlind h (pairOp i) :=
  .get fun _ => .bind (.checkIndex ..) fun _ => .pure _

theorem bucketFillOp : HostBlind h bucketFillOp := by
  unfold Machine.bucketFillOp
  refine .get fun s => .bind (.loopUp (fun j => ?clear) _ _) fun _ =>
    .bind (.loopUp (fun i => ?count) _ _) fun _ => .bind (.loopUp (fun j => ?ends) _ _) fun _ =>
      .bind (.writeFtab ..) fun _ => .loopDown (fun i => ?fill) _
  case clear => exact .writeFtab ..
  case count => exact .bind (.pairOp _) fun _ => .bind (.readFtab _) fun _ => .writeFtab ..
  case ends => exact .bind (.readFtab _) fun _ => .bind (.readFtab _) fun _ => .writeFtab ..
  case fill =>
    exact .bind (.pairOp _) fun _ => .bind (.readFtab _) fun _ => .bind (.writeFtab ..) fun _ =>
      .writeZptr ..

theorem sortBucket (j : Nat) : HostBlind h (sortBucket j) :=
  .bind (.readFtab _) fun _ => .bind (.readFtab _) fun _ => .ite (.qsortOp ..) (.pure _)

theorem bucketSortOp : HostBlind h bucketSortOp := by
  unfold Machine.bucketSortOp
  exact .bind .buildPadOp fun _ => .bind .bucketFillOp fun _ => .loopUp .sortBucket _ _

theorem findOrigptrFrom : ∀ fuel k, HostBlind h (findOrigptrFrom k fuel)
  | 0, _ => .throw _
  | fuel + 1, k => .bind (.readZptr _) fun _ =>
      .ite (.modify fun _ => rfl) (findOrigptrFrom fuel (k + 1))

theorem findOrigptrOp : HostBlind h findOrigptrOp := .get fun _ => .findOrigptrFrom ..

theorem sortOp : HostBlind h sortOp := by
  unfold Machine.sortOp
  exact .get fun _ => .ite (.bind .smallSortOp fun _ => .findOrigptrOp)
    (.bind .bucketSortOp fun _ => .findOrigptrOp)

theorem inverseCount (i : Nat) : HostBlind h (inverseCount i) :=
  .bind (.readLl _) fun _ => .bind (.readCc _) fun _ => .bind (.writeNext ..) fun _ => .writeCc ..

theorem inversePrefix : ∀ fuel v sum,
    HostBlind h (inversePrefix v fuel sum)
  | 0, _, _ => .pure _
  | fuel + 1, v, _ => .bind (.readCc _) fun _ => .bind (.writeCc ..) fun _ =>
      inversePrefix fuel (v + 1) _

theorem inverseWalk : ∀ j i, HostBlind h (inverseWalk j i)
  | 0, _ => .pure _
  | j + 1, i => by
    rw [Machine.inverseWalk]
    exact .get fun _ => .check (.throw _) <| .bind (.readLl _) fun _ => .bind (.writeBlock ..) fun _ =>
      .bind (.readNext _) fun _ => .bind (.readCc _) fun _ => inverseWalk j _

theorem inverseOp : HostBlind h inverseOp := by
  unfold Machine.inverseOp
  exact .get fun _ => .bind (.loopUp (fun _ => .writeCc ..) _ _) fun _ =>
    .bind (.loopUp .inverseCount _ _) fun _ => .bind (.inversePrefix ..) fun _ => .inverseWalk ..

/-! ## RLE1 and the spots -/

theorem appendBlock (b : Byte) : HostBlind h (appendBlock b) :=
  .get fun _ => .bind (.writeBlock ..) fun _ => .modify fun _ => rfl

theorem emitShortOp (c : Byte) (r : Nat) : HostBlind h (emitShortOp c r) :=
  .repeatTimes (.appendBlock c) r

theorem emitLongOp (c count : Byte) : HostBlind h (emitLongOp c count) :=
  .bind (.repeatTimes (.appendBlock c) _) fun _ => .appendBlock count

theorem emitSentinelOp : HostBlind h emitSentinelOp :=
  .bind (.appendBlock _) fun _ => .modify fun _ => rfl

theorem emitRunOp (c : Byte) (run : Nat) : HostBlind h (emitRunOp c run) :=
  .ite (.emitShortOp ..) (.emitLongOp ..)

theorem firstOfRun : HostBlind h firstOfRun :=
  .get fun s => .ite (.bind (.set { s with laValid := false }) fun _ => .pure _) <|
    .bind .pullByte fun
      | some _ => .pure _
      | none => .bind (.modify fun _ => rfl) fun _ => .pure _

theorem extendRun (c : Byte) : ∀ room run, HostBlind h (extendRun c room run)
  | 0, _ => .pure _
  | room + 1, run => .bind .pullByte fun
      | none => .bind (.modify fun _ => rfl) fun _ => .pure _
      | some _ => .ite (extendRun c room (run + 1)) <| .bind (.modify fun _ => rfl) fun _ => .pure _

theorem loadPass : HostBlind h loadPass :=
  .get fun _ => .ite (.pure _) <| .bind .firstOfRun fun
    | none => .bind .emitSentinelOp fun _ => .pure _
    | some c => .bind (.extendRun c _ _) fun _ => .bind (.emitRunOp c _) fun _ => .get fun _ =>
        .ite (.bind .emitSentinelOp fun _ => .pure _) (.pure _)

theorem loadLoop : ∀ fuel, HostBlind h (loadLoop fuel)
  | 0 => .throw _
  | fuel + 1 => .bind .loadPass fun _ => .ite (.pure _) (loadLoop fuel)

theorem loadOp : HostBlind h loadOp :=
  .bind (.modify fun _ => rfl) fun _ => .get fun _ => .bind (.loadLoop _) fun _ => .modify fun _ => rfl

theorem unloadLoop (m : Nat) : ∀ fuel i cnt prev,
    HostBlind h (unloadLoop m fuel i cnt prev)
  | 0, _, _, _ => .pure _
  | fuel + 1, i, cnt, prev => by
    rw [Machine.unloadLoop]
    refine .ite (.pure _) (.bind (.readBlock _) fun b => .bind (.pushByte b) fun _ =>
      .ite ?_ (unloadLoop m fuel _ _ _))
    exact .check (.throw _) <| .bind (.readBlock _) fun _ =>
      .bind (.repeatTimes (.pushByte _) _) fun _ => unloadLoop m fuel _ _ _

theorem unloadOp : HostBlind h unloadOp := by
  unfold Machine.unloadOp
  refine .get fun _ => .ite ?_ (.unloadLoop ..)
  exact .bind (.checkIndex ..) fun _ => .bind (.readBlock _) fun _ => .check (.throw _) (.unloadLoop ..)

theorem spotVisit (delta : SpotDelta) : HostBlind h (spotVisit delta) :=
  .get fun _ => .bind (.readBlock _) fun _ => .bind (.writeBlock ..) fun _ => .modify fun _ => rfl

theorem spotLoop (delta : SpotDelta) : ∀ fuel, HostBlind h (spotLoop delta fuel)
  | 0 => .throw _
  | fuel + 1 => .get fun _ => .ite (.bind (.spotVisit delta) fun _ => spotLoop delta fuel) (.pure _)

theorem spotApplyOp (delta : SpotDelta) : HostBlind h (spotApplyOp delta) :=
  .bind (.modify fun _ => rfl) fun _ => .get fun _ => .spotLoop delta _

/-! ## Stream items and phases -/

theorem basisOp (sym : Nat) : HostBlind h (basisOp sym) :=
  .sendOrReceive (.encodeOp ..) <| .bind (.basisReceived sym) fun _ => .pure _

theorem magicReceived (w : Word) : HostBlind h (magicReceived w) := by
  unfold Machine.magicReceived
  exact .check (.throw _) <| .check (.throw _) <| .check (.throw _) <|
    .bind (.modify fun _ => rfl) fun _ => .get fun _ => .ite (.throw _) (.pure _)

theorem crcReceived (w : Word) : HostBlind h (crcReceived w) :=
  .bind .crcFinalOp fun _ => .ite (.throw _) (.pure _)

theorem unitReceived (c : Byte) (copies : Nat) : HostBlind h (unitReceived c copies) :=
  .repeatTimes (.pushByte c) copies

theorem headerCOp : HostBlind h headerCOp := by
  unfold Machine.headerCOp
  exact .get fun _ => .check (.throw _) <| .bind .crcInitOp fun _ => .bind (.modify fun _ => rfl) fun _ =>
    .bind (.modify fun _ => rfl) fun _ => .get fun _ => .pushBits _

theorem trailerCOp : HostBlind h trailerCOp :=
  .bind .crcFinalOp fun _ => .bind (.putU32Op _) fun _ => .encFlushOp

theorem headerDOp : HostBlind h headerDOp := by
  unfold Machine.headerDOp
  exact .bind (.pullWordBits ..) fun _ => .bind (.magicReceived _) fun _ => .bind .crcInitOp fun _ =>
    .decStartOp

theorem trailerDOp : HostBlind h trailerDOp :=
  .bind .getU32Op fun _ => .crcReceived _

theorem phaseOp : ∀ p, HostBlind h (phaseOp p)
  | .idle => .pure ()
  | .headerC => .headerCOp
  | .loadRle => .loadOp
  | .spot => .spotApplyOp .plus
  | .sort => .sortOp
  | .encode => .encodeBlockOp
  | .trailerC => .trailerCOp
  | .headerD => .headerDOp
  | .decode => .decodeBlockOp
  | .invertSort => .inverseOp
  | .unspot => .spotApplyOp .minus
  | .unrle => .unloadOp
  | .trailerD => .trailerDOp

end AlikeUnder

end Sys2Proof.Machine
end

/-! PROOFS. The family `46_pipeline.md`, an ABORT within a step (O12): the step performed under it is the one the
sequencer performs with no act to come, and its port transactions are cut after the `k`-th. -/
section
namespace Sys2Proof.Machine

variable {s t : State} {h : List HostEvent}

/-! ## A step of the sequencer does not depend on the acts to come -/

/-- Where an instruction ended, seen from another state. -/
def onNext (f : State → State) : Host.Outcome State Fault Refusal → Host.Outcome State Fault Refusal
  | .next t => .next (f t)
  | .fault r => .fault r
  | .refused r => .refused r

theorem HostBlind.perform_withHost {α : Type} {op : Seq α} (hop : HostBlind h op) (s : State) :
    perform op (withHost h s) = onNext (withHost h) (perform op s) := by
  rw [perform, hop.run, perform]
  cases op s with
  | ok a t => rfl
  | error e t => cases e <;> rfl

theorem nextPhase_withHost (h : List HostEvent) (s : State) :
    nextPhase (withHost h s) = withHost h (nextPhase s) := by
  have hphase : (withHost h s).phase = s.phase := rfl
  rw [nextPhase, nextPhase, hphase]
  cases s.phase <;> rfl

theorem phase_withHost (p : Phase) (h : List HostEvent) (s : State) :
    exec (phaseInstr p) (withHost h s) = onNext (withHost h) (exec (phaseInstr p) s) := by
  by_cases hidle : p = .idle
  · rw [hidle]
    rfl
  · have hop : HostBlind h (do phaseOp p; modify nextPhase) :=
      .bind (.phaseOp p) fun _ => .modify (nextPhase_withHost h)
    rw [exec_phaseInstr hidle, exec_phaseInstr hidle]
    exact hop.perform_withHost s

theorem compress_withHost (lvl : BitVec 4) (h : List HostEvent) (s : State) :
    exec (.compress lvl) (withHost h s) = onNext (withHost h) (exec (.compress lvl) s) := by
  cases hd : commandsDropped s with
  | true => rw [exec_compress_dropped hd, exec_compress_dropped (s := withHost h s) hd, onNext]
  | false =>
    by_cases hlvl : levelOk lvl = true
    · rw [exec_compress_accepted hd hlvl, exec_compress_accepted (s := withHost h s) hd hlvl]
      rfl
    · rw [exec_compress_illegal hd hlvl, exec_compress_illegal (s := withHost h s) hd hlvl]
      rfl

theorem decompress_withHost (h : List HostEvent) (s : State) :
    exec .decompress (withHost h s) = onNext (withHost h) (exec .decompress s) := by
  cases hd : commandsDropped s with
  | true => rw [exec_decompress_dropped hd, exec_decompress_dropped (s := withHost h s) hd, onNext]
  | false =>
    rw [exec_decompress_accepted hd, exec_decompress_accepted (s := withHost h s) hd]
    rfl

/-- Every coded item: the sequencer operations have none (R108). -/
theorem exec_coded_withHost {i : Instr} {c : Code} (hc : encode i = some c) (h : List HostEvent)
    (s : State) : exec i (withHost h s) = onNext (withHost h) (exec i s) := by
  have hitem {x y : Seq Unit} (hx : HostBlind h x) (hy : HostBlind h y) :=
    (AlikeUnder.sendOrReceive hx hy).perform_withHost s
  cases i with
  | nop | abort => rfl
  | compress lvl => exact compress_withHost lvl h s
  | decompress => exact decompress_withHost h s
  | phaseIdle => exact phase_withHost .idle h s
  | phaseHeaderC => exact phase_withHost .headerC h s
  | phaseLoadRle => exact phase_withHost .loadRle h s
  | phaseSpot => exact phase_withHost .spot h s
  | phaseSort => exact phase_withHost .sort h s
  | phaseEncode => exact phase_withHost .encode h s
  | phaseTrailerC => exact phase_withHost .trailerC h s
  | phaseHeaderD => exact phase_withHost .headerD h s
  | phaseDecode => exact phase_withHost .decode h s
  | phaseInvertSort => exact phase_withHost .invertSort h s
  | phaseUnspot => exact phase_withHost .unspot h s
  | phaseUnrle => exact phase_withHost .unrle h s
  | phaseTrailerD => exact phase_withHost .trailerD h s
  | faultBadMagic | faultTruncated | faultBlockOverrun | faultBadSentinel | faultCrcMismatch
  | faultBadOrigptr | faultBadRle1 | faultResource | faultModelSymbolRange | faultBitsRunaway
  | faultOrigptrNotFound | faultIllegalCmd => rfl
  | basisRuna | basisRunb | basisOne | basis2To3 | basis4To7 | basis8To15 | basis16To31 | basis32To63
  | basis64To127 | basis128To255 | basisEob => exact (AlikeUnder.basisOp _).perform_withHost s
  | streamMagic _ => exact hitem (.pushBits _) (.magicReceived _)
  | streamOrigword w =>
    exact hitem (.putU32Op w) (.bind (.origwordReceived w) fun _ => .modify fun _ => rfl)
  | streamCrc32 w => exact hitem (.putU32Op w) (.crcReceived w)
  | rle1Short c _ => exact hitem (.emitShortOp c _) (.unitReceived c _)
  | rle1Long c count => exact hitem (.emitLongOp c count) (.unitReceived c _)
  | rle1Sentinel => exact hitem .emitSentinelOp (.pure ())
  | _ => cases hc

theorem sequencerStep_withHost (h : List HostEvent) (s : State) :
    sequencerStep (withHost h s) = onNext (withHost h) (sequencerStep s) := by
  cases hf : s.fault with
  | true => rw [sequencerStep_of_fault hf, sequencerStep_of_fault (s := withHost h s) hf, onNext]
  | false =>
    have hno : ¬ s.fault = true := by simp [hf]
    have hnoh : ¬ (withHost h s).fault = true := hno
    have hfetch : fetchCode (withHost h s) = fetchCode s := rfl
    rw [sequencerStep, sequencerStep, if_neg hno, if_neg hnoh, hfetch]
    cases hc : decode (fetchCode s) with
    | ok i =>
      rw [performCode, performCode, hc]
      exact exec_coded_withHost (decode_ok_iff.1 hc).1 h { s with latch := none }
    | error e =>
      rw [performCode, performCode, hc]
      rfl

/-! ## The cut (R294, U4) -/

theorem sequencerStep_continuesOutput (h : sequencerStep s = .next t) : ContinuesOutput s t := by
  obtain ⟨latch, hp⟩ := sequencerStep_performed h
  exact hp.continuesOutput

/-- What a step appended, cut after `k` items. -/
theorem append_take_drop_prefix {α : Type} {xs ys : List α} (h : xs <+: ys) (k : Nat) :
    xs ++ (ys.drop xs.length).take k <+: ys := by
  obtain ⟨zs, rfl⟩ := h
  rw [List.drop_left]
  exact (List.prefix_append_right_inj xs).2 (List.take_prefix k zs)

theorem length_append_take_le {α : Type} (xs ys : List α) (k : Nat) :
    (xs ++ ys.take k).length ≤ xs.length + k := by
  rw [List.length_append]
  exact Nat.add_le_add_left (List.length_take_le k ys) _

theorem pulledItems_le (k before after : Nat) (waits : Bool) : pulledItems k before after waits ≤ k :=
  Nat.min_le_left ..

theorem length_le_drop_add {α : Type} (xs : List α) {j k : Nat} (hj : j ≤ k) :
    xs.length ≤ (xs.drop j).length + k := by
  rw [List.length_drop]
  omega

/-- An ABORT within a step performs the step and cuts it. -/
theorem step_abortAfter {k : Nat} {rest : List HostEvent} (hs : s.host = .abortAfter k :: rest)
    (h : sequencerStep { s with host := [] } = .next t) :
    step s = .next (cutShort k { s with host := rest } { t with host := rest }) := by
  have hrest : sequencerStep { s with host := rest } = .next { t with host := rest } :=
    (sequencerStep_withHost rest { s with host := [] }).trans (congrArg _ h)
  rw [step_of_act hs, hostAct, abortDuring, hrest]

/-- Settles O12: the step is performed whatever acts are to come, and its transactions are cut after `k`. -/
theorem abortLeavesAPrefix : Obligations.AbortLeavesAPrefix := by
  intro s t k rest hs h
  rw [step_of_no_act rfl] at h
  obtain ⟨-, hbits, hbytes⟩ := sequencerStep_continuesOutput h
  refine ⟨_, step_abortAfter hs h, statusWord_clearedState _, rfl, rfl, rfl, rfl, rfl, rfl, rfl, ?_⟩
  exact ⟨List.prefix_append .., append_take_drop_prefix hbits k, length_append_take_le ..,
    List.prefix_append .., append_take_drop_prefix hbytes k, length_append_take_le ..,
    List.drop_suffix .., length_le_drop_add _ (pulledItems_le ..),
    List.drop_suffix .., length_le_drop_add _ (pulledItems_le ..)⟩

end Sys2Proof.Machine
end

/-! PROOFS. The family `60_exceptions.md`: each row of format FAULT is the raise of its fault, and every raise
is taken by the one fault entry. -/
section
namespace Sys2Proof.Machine

/-- The table of format FAULT lists the codes that are latched (R341). -/
theorem faultCodeBits_of_mem_faultRows : ∀ row ∈ faultRows, faultCodeBits row.2.1 = row.2.2 := by
  decide

/-- Each instruction of format FAULT raises the fault of its row, in every state (R341). -/
theorem exec_of_mem_faultRows :
    ∀ row ∈ faultRows, ∀ s : State, exec row.1 s = perform (raise (α := Unit) row.2.1) s := by
  simp only [faultRows, List.forall_mem_cons]
  exact ⟨fun _ => rfl, fun _ => rfl, fun _ => rfl, fun _ => rfl, fun _ => rfl, fun _ => rfl,
    fun _ => rfl, fun _ => rfl, fun _ => rfl, fun _ => rfl, fun _ => rfl, fun _ => rfl,
    List.forall_mem_nil _⟩

/-- A bare raise has no effect before the fault entry. -/
theorem perform_raise {α : Type} (f : FaultCode) (s : State) :
    perform (raise (α := α) f) s = .next (faulted (faultCodeBits f) s) :=
  perform_faulted (raise_apply f s)

theorem exec_faultEntry (f : FaultCode) (s : State) :
    exec (.faultEntry f) s = .next (faulted (faultCodeBits f) s) := rfl

/-- Settles O23: the row's instruction raises the row's fault, and a raise and `fault.entry` both latch the
code of the row. -/
theorem faultsAreTaken : Obligations.FaultsAreTaken := by
  intro s i f c hrow
  have hraises : exec i s = perform (raise (α := Unit) f) s := exec_of_mem_faultRows _ hrow s
  have hcode : faultCodeBits f = c := faultCodeBits_of_mem_faultRows _ hrow
  subst hcode
  exact ⟨hraises.trans (perform_raise f s), exec_faultEntry f s⟩

end Sys2Proof.Machine
end
